-- ==== Sys2Proof/Word.lean ====
section
/-! DEFINITION. The word types of the block and its plainest arithmetic (00_scope.md R8, R10, R11, R12). -/

namespace Sys2Proof

/-- An 8-bit channel, index or character code (R8). -/
abbrev Byte := BitVec 8

/-- The 16-bit VAL field of a geometry register (10_state.md R24). -/
abbrev Half := BitVec 16

/-- A 32-bit host data word, register or code point (R10). -/
abbrev Word := BitVec 32

/-- What one `draw6()` of the entropy source answers (R14). -/
abbrev Draw := BitVec 6

/-- A bit sequence, leftmost element first (R12): a list, not an integer. -/
abbrev Bits := List Bool

/-- `ceil_div(a, b)` of R11, for b > 0. -/
def ceilDiv (a b : Nat) : Nat := (a + b - 1) / b

end Sys2Proof
end

