-- ==== Sys2Proof/Config.lean ====
section
/-! DEFINITION. What an implementation fixes (00_scope.md R9) and the free values
(93_implementation_defined.md section 1). Every value the spec leaves OPEN is an `opaque` constant with no
body: nothing in Lean can evaluate one. -/

namespace Sys2Proof

/-- The seven spaces of the host port (20_memory.md R60). -/
inductive Space
  | reg | car | emb | tin | orgb | oidx | tout
deriving DecidableEq, Repr, Inhabited

/-- The seven spaces, each once. -/
def Space.all : List Space := [.reg, .car, .emb, .tin, .orgb, .oidx, .tout]

/-- `TAIL_MODE` of R9: what EXTRACT_TXT does with a final chunk of fewer than 8 bits. -/
inductive TailMode
  | shortValue | drop
deriving DecidableEq, Repr, Inhabited

/-- The host-bus byte addresses of the seven spaces (R9, 20_memory.md R61). -/
structure Bases where
  reg  : Nat
  car  : Nat
  emb  : Nat
  tin  : Nat
  orgb : Nat
  oidx : Nat
  tout : Nat
deriving DecidableEq, Repr, Inhabited

/-- The OPEN parameters of R9 that a model takes as arguments. `VALID_CODE` is held as the list of the codes it
rejects, so that the parameters are plain data; the default is the empty list. -/
structure Params where
  carDepth     : Nat
  txtInDepth   : Nat
  txtOutDepth  : Nat
  invalidCodes : List Byte
  tailMode     : TailMode
  bases        : Bases
deriving DecidableEq, Repr, Inhabited

/-- `depth(S)` of R61, with depth(REG) = 16. -/
def Params.depth (p : Params) : Space → Nat
  | .reg => 16
  | .car | .emb | .orgb | .oidx => p.carDepth
  | .tin => p.txtInDepth
  | .tout => p.txtOutDepth

/-- `BASE_S` of R61. -/
def Params.base (p : Params) : Space → Nat
  | .reg => p.bases.reg
  | .car => p.bases.car
  | .emb => p.bases.emb
  | .tin => p.bases.tin
  | .orgb => p.bases.orgb
  | .oidx => p.bases.oidx
  | .tout => p.bases.tout

/-- The byte ranges `[BASE_S, BASE_S + 4·depth(S))` of two spaces share no address (R61). -/
def Params.apart (p : Params) (S T : Space) : Bool :=
  p.depth S == 0 || p.depth T == 0 ||
    decide (p.base S + 4 * p.depth S ≤ p.base T) || decide (p.base T + 4 * p.depth T ≤ p.base S)

/-- Every base is 4-byte aligned and no two spaces overlap (R61). -/
def Params.mapOk (p : Params) : Bool :=
  Space.all.all fun S => p.base S % 4 == 0 && Space.all.all fun T => S == T || p.apart S T

/-- The constraints R9 and R61 put on the parameters. -/
def Params.ok (p : Params) : Bool :=
  decide (p.carDepth ≤ 65535 * 65535) && decide (p.txtInDepth ≤ 2 ^ 28) &&
    decide (3 * ceilDiv (6 * p.carDepth) 8 ≤ p.txtOutDepth) && p.mapOk

/-- The smallest parameters R9 allows: no buffer element at all, every base at address 0. -/
def Params.least : Params := default

/-- The parameters of the block at hand, before R9's constraints are looked at: OPEN, no body. -/
opaque Config.anyParams : Params

/-- The parameters of the block at hand: any that R9 allows, and nothing says which. -/
def Config.params : Params := if Config.anyParams.ok then Config.anyParams else Params.least

/-- U1: the answer of the entropy source to its k-th request, a free input under no law (R7, R52, R177). -/
opaque Config.draw6 : Nat → Draw

/-- U12: how many of the host's inputs a command lets pass before it ends; finite and otherwise open (70 R202). -/
opaque Config.commandTime : Nat → Nat

/-- Whether a WEAVE_TXT that reset cuts had come to the k-th draw; how far it had come is open (70 R192, U11). -/
opaque Config.drewBeforeCut : Nat → Bool

/-- Which of the contents an output element has had since the host last saw the block idle a read answers, before it is
brought into range (70 R196, R67). -/
opaque Config.recency : Nat → Nat

/-- U2: whether a read of an output element while BUSY answers the value the running command writes there
rather than the old content (20_memory.md R67). -/
opaque Config.raceTakesNew : Nat → Bool

/-- U3: what a read of REQ_PIX or OUT_LEN answers while BUSY, and after the command's end until a read of STATUS shows
it, any 32-bit value (R67, 70 R196). -/
opaque Config.busyWord : Nat → Word

/-- U3: what a read of PROGRESS answers while BUSY, before it is brought into [0, W·H] (R67). -/
opaque Config.busyProgress : Nat → Nat

/-- Whether a host write past a space's end while BUSY sets WBUSY: R61 says no flag, R66 says any write
(DESIGN CHOICE, log 7: left free). -/
opaque Config.strayWriteFlags : Nat → Bool

/-- What OUT_LEN holds after an EXTRACT_TXT that wrote 2^32 bytes or more, a count its 32 bits do not hold; the
spec states no value (DESIGN CHOICE, log 20: left free). -/
opaque Config.longOutLen : Nat → Word

/-- The parameters of the block meet R9's constraints. -/
theorem Config.params_ok : Config.params.ok = true := by
  unfold Config.params
  split
  · assumption
  · decide

end Sys2Proof
end

