-- ==== Sys2Proof/Syntax.lean ====
section
/-! DEFINITION. The four commands of spec/opcode_table.json (30_encoding.md R83). A command has no operand
field: every operand is state (R80, R82). -/

namespace Sys2Proof

/-- The commands of WBS command set version 1, one constructor per row of the opcode table. -/
inductive Instr
  /-- OP 0x1, image extraction, 3/3/2 (41_image_codec.md R130). -/
  | extract
  /-- OP 0x2, image weaving, 3/3/2 (41_image_codec.md R134). -/
  | weave
  /-- OP 0x3, text extraction, 2/2/2 with sentinel scan (42_text_codec.md R145). -/
  | extractTxt
  /-- OP 0x4, text weaving, 2/2/2 with framing and filler (42_text_codec.md R153). -/
  | weaveTxt
deriving DecidableEq, Repr

end Sys2Proof
end

