-- ==== Sys2Proof/WellFormed.lean ====
section
/-! DEFINITION. The checks a term must pass to mean something: a command word, a bus access, the parameters. -/

namespace Sys2Proof

/-- An instruction has no field (30_encoding.md R82), so each of the four is well formed. -/
def Instr.wellFormed : Instr → Bool
  | .extract | .weave | .extractTxt | .weaveTxt => true

/-- Bits [31:4] of a command word, RSV, must be 0 (R82). -/
def reservedClear (w : Word) : Bool := w.extractLsb' 4 28 == 0

/-- OP, bits [3:0], is one of 1 to 4 (R83, R84). -/
def opLegal (w : Word) : Bool := decide (1 ≤ (w.extractLsb' 0 4).toNat) && decide ((w.extractLsb' 0 4).toNat ≤ 4)

/-- A legal command word (R83). -/
def commandWordWellFormed (w : Word) : Bool := reservedClear w && opLegal w

/-- A bus access of `bytes` bytes at byte address `addr` has a form R62 supports: one aligned 32-bit word. -/
def busAccessWellFormed (addr bytes : Nat) : Bool := bytes == 4 && addr % 4 == 0

/-- The parameters meet R9's constraints. -/
def Params.wellFormed (p : Params) : Bool := p.ok

end Sys2Proof
end

