-- ==== Sys2Proof/Decode.lean ====
section
/-! DEFINITION. The decoder of 30_encoding.md R85, total on any bytes, the encoder written from the same table
(R83), and the byte lanes of a word (20_memory.md R63). -/

namespace Sys2Proof

/-- Why a word is ILLEGAL (R84), or why bytes are no command word. -/
inductive DecodeError
  /-- Fewer than four bytes: every command word is 32 bits (R82). -/
  | truncated
  /-- RSV, bits [31:4], is not 0 (R84). -/
  | reservedBits
  /-- OP is 0 or above 4 (R84). -/
  | noSuchOp
deriving DecidableEq, Repr

/-- The command word's OP field, bits [3:0] (R82). -/
def opField (w : Word) : BitVec 4 := w.extractLsb' 0 4

/-- The command word's RSV field, bits [31:4] (R82). -/
def rsvField (w : Word) : BitVec 28 := w.extractLsb' 4 28

/-- `decode` of R85. -/
def decode (w : Word) : Except DecodeError Instr :=
  if rsvField w ≠ 0 then .error .reservedBits
  else match (opField w).toNat with
    | 1 => .ok .extract
    | 2 => .ok .weave
    | 3 => .ok .extractTxt
    | 4 => .ok .weaveTxt
    | _ => .error .noSuchOp

/-- Byte `k` of a word on a bus that numbers its bytes: little-endian, byte 0 is bits [7:0] (20_memory.md R63). -/
def byteLane (w : Word) (k : Nat) : Byte := w.extractLsb' (8 * k) 8

/-- A word from its byte lanes, lane 0 first (20_memory.md R63). -/
def wordOfLanes (b0 b1 b2 b3 : Byte) : Word := b3 ++ b2 ++ b1 ++ b0

/-- The four byte lanes of a word, lowest address first (20_memory.md R63). -/
def lanesOfWord (w : Word) : List Byte := [byteLane w 0, byteLane w 1, byteLane w 2, byteLane w 3]

/-- Decode one command word from bytes, and give back the bytes after it. -/
def decodeBytes : List Byte → Except DecodeError (Instr × List Byte)
  | b0 :: b1 :: b2 :: b3 :: rest =>
    match decode (wordOfLanes b0 b1 b2 b3) with
    | .ok i => .ok (i, rest)
    | .error e => .error e
  | _ => .error .truncated

/-- The command word of an instruction (R83). -/
def encode : Instr → Word
  | .extract => 0x00000001
  | .weave => 0x00000002
  | .extractTxt => 0x00000003
  | .weaveTxt => 0x00000004

/-- The bytes of an instruction's command word. -/
def encodeBytes (i : Instr) : List Byte := lanesOfWord (encode i)

/-- The command word whose low `nbits` bits are `w`'s and whose other bits are 0. -/
def tableWord (nbits w : Nat) : Word := BitVec.ofNat 32 (w % 2 ^ nbits)

/-- What the decoder reads from a command word numbered as spec/opcode_table.json numbers its bits. -/
def decodeTableWord (nbits w : Nat) : Option Instr :=
  match decodeBytes (lanesOfWord (tableWord nbits w)) with
  | .ok (i, _) => some i
  | .error _ => none

end Sys2Proof
end

