-- ==== Sys2Proof/Machine/State.lean ====
section
/-! DEFINITION. The block's architectural state (10_state.md), the host's inputs, the reasons a step stops, and
reset (70_reset_and_hazards.md R193). -/

namespace Sys2Proof.Machine

/-- A carrier pixel: the R, G and B fields of a pixel word (10_state.md R41). The reserved bits [31:24] read 0
and are not stored. -/
structure Pixel where
  r : Byte
  g : Byte
  b : Byte
deriving DecidableEq, Repr, Inhabited

/-- The error codes of STATUS.ERR (60_exceptions.md R161). Codes 6 to 15 are never written. -/
inductive ErrCode
  /-- 0: success, or no command ended yet. -/
  | none
  /-- 1: reserved for the host's file-open failure; the block never writes it (R169). -/
  | notFound
  /-- 2: WEAVE, the embedded dimensions differ from the carrier's. -/
  | sizeMismatch
  /-- 3: WEAVE_TXT, the pixel budget exceeds the carrier. -/
  | capacityExceeded
  /-- 4: the accepted command word is illegal. -/
  | illegalCmd
  /-- 5: the geometry or the text length exceeds a buffer. -/
  | range
deriving DecidableEq, Repr

/-- The geometry and length values a command works with, latched when its CMD write is accepted (10_state.md R51,
30_encoding.md R81 item 2). -/
structure Latched where
  carW   : Half
  carH   : Half
  embW   : Half
  embH   : Half
  txtLen : Word
deriving DecidableEq, Repr

/-- The sequencer (10_state.md R50). Its opcode is `decode word` (30_encoding.md R85) and is not stored a second
time. -/
inductive Sequencer
  /-- IDLE: BUSY = 0. -/
  | idle
  /-- RUN: BUSY = 1, with the accepted command word, the latched operands, and `due`, the MODEL's own count of
  the inputs that still pass before the command ends (log 5). -/
  | run (word : Word) (latched : Latched) (due : Nat)
deriving DecidableEq, Repr

/-- A buffer: its written elements as (index, element) pairs, indices strictly rising. An index that is not
listed is an unwritten element (10_state.md R45). -/
abbrev Buffer (α : Type) := List (Nat × α)

/-- The six buffer spaces (10_state.md R40), each with the element content R41 to R44 give it. -/
structure Memory where
  car  : Buffer Pixel
  emb  : Buffer Byte
  tin  : Buffer Word
  orgb : Buffer Pixel
  oidx : Buffer Byte
  tout : Buffer Byte
deriving DecidableEq, Repr

/-- The data of a host write: a word the host supplies, or the word its last read returned (the `t` of `copy`,
30_encoding.md R89). -/
inductive Datum
  | lit (w : Word)
  | answer
deriving DecidableEq, Repr

/-- A host transaction, the tuple of 30_encoding.md R88. -/
inductive Txn
  /-- `HostWrite(S, i, word32)` (20_memory.md R60). -/
  | write (S : Space) (i : Nat) (d : Datum)
  /-- `HostRead(S, i)` (20_memory.md R60). -/
  | read (S : Space) (i : Nat)
deriving DecidableEq, Repr

/-- An access on the byte-addressed host bus (20_memory.md R61, R62): `bytes` bytes at `addr`; a write of `data`,
or a read where there is none. -/
structure BusAccess where
  addr  : Nat
  bytes : Nat
  data  : Option Datum
deriving DecidableEq, Repr

/-- What the outside does next. -/
inductive Input
  /-- One word transaction (20_memory.md R60). -/
  | txn (t : Txn)
  /-- One access by byte address (20_memory.md R61). -/
  | bus (a : BusAccess)
  /-- Read STATUS until BUSY = 0 (30_encoding.md R87): one poll a step. -/
  | wait
  /-- Reset is asserted (70_reset_and_hazards.md R190). -/
  | reset
  /-- A transaction that overlaps reset; the platform must not issue one (R190). -/
  | txnDuringReset (t : Txn)
deriving DecidableEq, Repr

/-- The machine stops with a fault. -/
inductive Fault
  /-- The host reads a buffer element never written since reset; raised by `hostRead`. The spec says a model
  faults (10_state.md R45, U4). Safe: the hardware goes on with an unspecified value. -/
  | hostReadUnwritten
  /-- A command reads a buffer element never written since reset; raised by the four commands once their checks
  have passed. The spec says a model faults (10_state.md R45, 70_reset_and_hazards.md R195, U4). Safe: the
  hardware goes on with an unspecified value. -/
  | blockReadUnwritten
deriving DecidableEq, Repr

/-- The model gives no meaning to what was asked. -/
inductive Refusal
  /-- An instruction that has no meaning yet; raised by `exec` alone. Safe. -/
  | notModelled (mnemonic : String)
  /-- A bus access whose byte address is no multiple of 4; raised by `busInput` (20_memory.md R62, U5). Safe. -/
  | misalignedAccess
  /-- A bus access narrower or wider than 32 bits; raised by `busInput` (20_memory.md R62, U5). Safe. -/
  | unsupportedWidth
  /-- A bus access at an address in no space, which the platform decides; raised by `busInput` (20_memory.md
  R61). Safe. -/
  | outsideBlock
  /-- A host transaction that overlaps reset; raised by `hostMove` (70_reset_and_hazards.md R190, U6). Safe. -/
  | overlapsReset
deriving DecidableEq, Repr

/-- The state: the block's registers (10_state.md R23), buffers (R40), sequencer (R50), and the model's own
fields, which are named so. -/
structure State where
  /-- The implementation's parameters (00_scope.md R9), fixed for a block. The MODEL's own field (log 1). -/
  cfg       : Params
  /-- CMD (R25). -/
  cmd       : Word
  /-- STATUS.DONE (R26). -/
  done      : Bool
  /-- STATUS.OK (R26). -/
  ok        : Bool
  /-- STATUS.ERR (R26). -/
  err       : ErrCode
  /-- STATUS.SENT_FOUND (R26). -/
  sentFound : Bool
  /-- STATUS.WBUSY (R26). -/
  wbusy     : Bool
  /-- CAR_W.VAL (R24). -/
  carW      : Half
  /-- CAR_H.VAL (R24). -/
  carH      : Half
  /-- EMB_W.VAL (R24). -/
  embW      : Half
  /-- EMB_H.VAL (R24). -/
  embH      : Half
  /-- TXT_LEN (R28). -/
  txtLen    : Word
  /-- REQ_PIX (R29). -/
  reqPix    : Word
  /-- OUT_LEN (R30). -/
  outLen    : Word
  /-- PROGRESS (R31), as it stands when the sequencer is IDLE; while BUSY a read is free (20_memory.md R67). -/
  progress  : Word
  /-- The sequencer; STATUS.BUSY is "it is in RUN" (R50). -/
  seq       : Sequencer
  /-- The six buffers (R40). -/
  mem       : Memory
  /-- The buffers as they stood at each CMD write accepted since a read of STATUS last returned BUSY = 0, the latest
  first: what a read of an output may still show (70_reset_and_hazards.md R196). The MODEL's own field (log 25). -/
  older     : List Memory
  /-- The number of the entropy source's next draw. The MODEL's own field (log 4). -/
  draws     : Nat
  /-- The numbers below `draws` of the draws that were not made: a WEAVE_TXT that reset cut had not come to them
  (70_reset_and_hazards.md R192). The MODEL's own field (log 4). -/
  undrawn   : List Nat
  /-- The number of the next other free choice. The MODEL's own field (log 10). -/
  fresh     : Nat
  /-- What the outside does next, in order. The MODEL's own field (log 12). -/
  inputs    : List Input
  /-- What the last HostRead returned (20_memory.md R60). The MODEL's own field (log 10). -/
  answer    : Word
  /-- A command has ended and no read of STATUS has returned BUSY = 0 since: what the host must still see before its
  program ends (70_reset_and_hazards.md R204). The MODEL's own field (log 24). -/
  endUnseen : Bool
deriving DecidableEq, Repr

/-- No element written (70_reset_and_hazards.md R191). -/
def Memory.unwritten : Memory := { car := [], emb := [], tin := [], orgb := [], oidx := [], tout := [] }

/-- The machine right after power-on reset (70_reset_and_hazards.md R193): every register 0, the sequencer IDLE,
every buffer element unwritten. The model's own fields: log 1, 4, 10, 24, 25. -/
def State.reset : State where
  cfg := Config.params
  cmd := 0
  done := false
  ok := false
  err := .none
  sentFound := false
  wbusy := false
  carW := 0
  carH := 0
  embW := 0
  embH := 0
  txtLen := 0
  reqPix := 0
  outLen := 0
  progress := 0
  seq := .idle
  mem := Memory.unwritten
  older := []
  draws := 0
  undrawn := []
  fresh := 0
  inputs := []
  answer := 0
  endUnseen := false

end Sys2Proof.Machine
end

