-- ==== Sys2Proof/Machine/Flags.lean ====
section
/-! DEFINITION. The STATUS register: its word, and every way its bits change (10_state.md R26, R27). -/

namespace Sys2Proof.Machine

/-- The numeric code of an error (60_exceptions.md R161). -/
def ErrCode.code : ErrCode → BitVec 4
  | .none => 0
  | .notFound => 1
  | .sizeMismatch => 2
  | .capacityExceeded => 3
  | .illegalCmd => 4
  | .range => 5

/-- STATUS.BUSY: the sequencer is in RUN (R50). -/
def State.busy (s : State) : Bool :=
  match s.seq with
  | .idle => false
  | .run _ _ _ => true

/-- The STATUS word a read answers (R26): WBUSY [9], SENT_FOUND [8], ERR [7:4], 0 [3], OK [2], DONE [1],
BUSY [0], the rest 0. -/
def State.statusWord (s : State) : Word :=
  (0#22 ++ BitVec.ofBool s.wbusy ++ BitVec.ofBool s.sentFound ++ s.err.code ++ 0#1 ++ BitVec.ofBool s.ok ++
    BitVec.ofBool s.done ++ BitVec.ofBool s.busy : BitVec 32)

/-- The flags an accepted CMD write clears (R27); BUSY is set by entering RUN. -/
def State.clearResult (s : State) : State :=
  { s with done := false, ok := false, err := .none, sentFound := false }

/-- The flags at a command's end (R27): BUSY 0, DONE 1, OK if and only if the code is 0, ERR the code, and
SENT_FOUND, which only a successful EXTRACT_TXT sets. The host has not seen this end yet (log 24). -/
def State.endFlags (s : State) (code : ErrCode) (found : Bool) : State :=
  { s with seq := .idle, done := true, ok := code == .none, err := code, sentFound := found, endUnseen := true }

/-- WBUSY is set by a lost host write (20_memory.md R66). -/
def State.setWbusy (s : State) : State := { s with wbusy := true }

/-- A host write to STATUS: bit 9 = 1 clears WBUSY, every other bit is ignored (R26). -/
def State.writeStatus (s : State) (w : Word) : State :=
  { s with wbusy := s.wbusy && !w.getLsbD 9 }

end Sys2Proof.Machine
end

