-- ==== Sys2Proof/Machine/Ops.lean ====
section
/-! DEFINITION. The named operations over buffers and registers: element reads and writes (00_scope.md R14),
accepting a command (30_encoding.md R81), and ending one with success (60_exceptions.md R166) or with an error
(R165, the block's one way to report an exception; there is no return from it, R171). -/

namespace Sys2Proof.Machine

/-! ## Buffers -/

/-- Element `i`, or nothing where it is unwritten (10_state.md R45). -/
def Buffer.read {α : Type} : Buffer α → Nat → Option α
  | [], _ => none
  | (k, v) :: b, i => if k = i then some v else Buffer.read b i

/-- Write element `i`, keeping the indices rising. -/
def Buffer.write {α : Type} : Buffer α → Nat → α → Buffer α
  | [], i, v => [(i, v)]
  | (k, u) :: b, i, v =>
    if i < k then (i, v) :: (k, u) :: b
    else if i = k then (i, v) :: b
    else (k, u) :: Buffer.write b i v

/-- Read `count` elements from index `start` on, or nothing where one of them is unwritten. -/
def Buffer.loadFrom {α : Type} (b : Buffer α) (start : Nat) : Nat → Option (List α)
  | 0 => some []
  | count + 1 =>
    match Buffer.read b start with
    | none => none
    | some v => (Buffer.loadFrom b (start + 1) count).map (v :: ·)

/-- Read elements 0 to K − 1. -/
def Buffer.load {α : Type} (b : Buffer α) (K : Nat) : Option (List α) := Buffer.loadFrom b 0 K

/-- Write a list of elements from index `start` on. -/
def Buffer.storeFrom {α : Type} (b : Buffer α) (start : Nat) : List α → Buffer α
  | [] => b
  | v :: vs => Buffer.storeFrom (Buffer.write b start v) (start + 1) vs

/-- Write a list of elements from index 0 on. -/
def Buffer.store {α : Type} (b : Buffer α) (vs : List α) : Buffer α := Buffer.storeFrom b 0 vs

/-- The canonical form: indices strictly rising, so equal buffers are equal data. -/
def Buffer.wf {α : Type} (b : Buffer α) : Bool := decide (b.Pairwise fun x y => x.1 < y.1)

/-- Every listed index is below the buffer's depth. -/
def Buffer.within {α : Type} (b : Buffer α) (depth : Nat) : Bool := b.all fun x => decide (x.1 < depth)

/-- Every buffer is in canonical form. -/
def Memory.wf (m : Memory) : Bool :=
  Buffer.wf m.car && Buffer.wf m.emb && Buffer.wf m.tin && Buffer.wf m.orgb && Buffer.wf m.oidx && Buffer.wf m.tout

/-- Every listed element exists: its index is below its space's depth (20_memory.md R61). -/
def Memory.within (m : Memory) (p : Params) : Bool :=
  Buffer.within m.car (p.depth .car) && Buffer.within m.emb (p.depth .emb) && Buffer.within m.tin (p.depth .tin) &&
    Buffer.within m.orgb (p.depth .orgb) && Buffer.within m.oidx (p.depth .oidx) && Buffer.within m.tout (p.depth .tout)

/-! ## Commands -/

/-- K = W · H, exact over the naturals (00_scope.md R10). -/
def Latched.pixels (l : Latched) : Nat := l.carW.toNat * l.carH.toNat

/-- n, the number of characters of the text payload (10_state.md R28). -/
def Latched.chars (l : Latched) : Nat := l.txtLen.toNat

/-- What an accepted CMD write latches (10_state.md R51). -/
def State.toLatch (s : State) : Latched where
  carW := s.carW
  carH := s.carH
  embW := s.embW
  embH := s.embH
  txtLen := s.txtLen

/-- Enter RUN with word `w` (30_encoding.md R81): CMD takes the word, the operands are latched, the result flags
and PROGRESS are cleared, WBUSY stays. `due` inputs pass before the command ends. What the buffers held is kept, for reads
before the host has seen the command end (log 25). -/
def State.enterRun (s : State) (w : Word) (due : Nat) : State :=
  { s.clearResult with cmd := w, progress := 0, seq := .run w s.toLatch due, older := s.mem :: s.older }

/-- How many inputs pass before a command with word `w` ends: none for an illegal word, which ends at once
(60_exceptions.md R164, log 8), and otherwise an open, finite number (70_reset_and_hazards.md R202, log 5). -/
def commandDue (w : Word) (k : Nat) : Nat :=
  match decode w with
  | .ok _ => Config.commandTime k
  | .error _ => 0

/-- A HostWrite to CMD while BUSY = 0 (R81). -/
def State.accept (s : State) (w : Word) : State :=
  { s.enterRun w (commandDue w s.fresh) with fresh := s.fresh + 1 }

/-- `end OK` after `K` pixels (60_exceptions.md R166, 10_state.md R27, R31). -/
def State.endOk (s : State) (K : Nat) (found : Bool) : State :=
  { s.endFlags .none found with progress := BitVec.ofNat 32 K }

/-- `raise Error(code)` (60_exceptions.md R165): the flags, PROGRESS 0, the sequencer IDLE, nothing else. -/
def State.raiseError (s : State) (code : ErrCode) : State :=
  { s.endFlags code false with progress := 0 }

/-- The end of an illegal word (60_exceptions.md R164). -/
def State.endIllegal (s : State) : State := s.raiseError .illegalCmd

end Sys2Proof.Machine
end

