-- ==== Sys2Proof/Machine/Slicer.lean ====
section
/-! DEFINITION. The bit-slicer datapath: pure functions on pixels and bit sequences (40_bitslicer.md R100 to R109). -/

namespace Sys2Proof.Machine

/-- `bits8(v)`: the eight bits of a byte, most significant first (R100). -/
def bits8 (v : Byte) : Bits :=
  [v.getLsbD 7, v.getLsbD 6, v.getLsbD 5, v.getLsbD 4, v.getLsbD 3, v.getLsbD 2, v.getLsbD 1, v.getLsbD 0]

/-- `uint(s)`: a bit sequence read as an unsigned integer, leftmost element most significant (R101). -/
def uint (s : Bits) : Nat := s.foldl (fun acc bit => 2 * acc + bit.toNat) 0

/-- `EXT332(p)` (R103). -/
def ext332 (p : Pixel) : Byte :=
  (p.r.extractLsb 2 0).setWidth 8 <<< 5 ||| (p.g.extractLsb 2 0).setWidth 8 <<< 2 ||| (p.b.extractLsb 1 0).setWidth 8

/-- `INS332(p, v)` (R104). -/
def ins332 (p : Pixel) (v : Byte) : Pixel where
  r := (p.r &&& 0xF8) ||| (v.extractLsb 7 5).setWidth 8
  g := (p.g &&& 0xF8) ||| (v.extractLsb 4 2).setWidth 8
  b := (p.b &&& 0xFC) ||| (v.extractLsb 1 0).setWidth 8

/-- `EXT222(p)` (R105). -/
def ext222 (p : Pixel) : BitVec 6 :=
  (p.r.extractLsb 1 0).setWidth 6 <<< 4 ||| (p.g.extractLsb 1 0).setWidth 6 <<< 2 ||| (p.b.extractLsb 1 0).setWidth 6

/-- `seq6(p)`: a pixel's six low bits in R, G, B order (R105). -/
def seq6 (p : Pixel) : Bits := (bits8 p.r).drop 6 ++ (bits8 p.g).drop 6 ++ (bits8 p.b).drop 6

/-- `INS222(p, g)` (R106). -/
def ins222 (p : Pixel) (g : BitVec 6) : Pixel where
  r := (p.r &&& 0xFC) ||| (g.extractLsb 5 4).setWidth 8
  g := (p.g &&& 0xFC) ||| (g.extractLsb 3 2).setWidth 8
  b := (p.b &&& 0xFC) ||| (g.extractLsb 1 0).setWidth 8

/-- `INSPART222(p, s)`: the first `len(s)` of the six low bits are replaced, the others kept (R107). -/
def insPart222 (p : Pixel) (s : Bits) : Pixel :=
  if s = [] then p else ins222 p (BitVec.ofNat 6 (uint (s ++ (seq6 p).drop s.length)))

/-- `FILL222(p, r)` (R108). -/
def fill222 (p : Pixel) (r : Draw) : Pixel := ins222 p r

end Sys2Proof.Machine
end

