-- ==== Sys2Proof/Machine/Text.lean ====
section
/-! DEFINITION. The text codec's character maps and stages: pure functions on bytes, bits and pixels
(40_bitslicer.md R111 to R115, 42_text_codec.md R140 to R152). -/

namespace Sys2Proof.Machine

/-- `chr2byte(c)`: a code point above 0xFF becomes '?' (R111). -/
def chr2byte (c : Word) : Byte := if c.toNat ≤ 0xFF then c.setWidth 8 else 0x3F

/-- `SENTINEL`, the five bytes of `(brace)#ß#(brace)` (R112). -/
def sentinel : List Byte := [0x7B, 0x23, 0xDF, 0x23, 0x7D]

/-- `PAD(n)`: (n mod 6) characters '0' (R113). -/
def pad (n : Nat) : List Byte := List.replicate (n % 6) 0x30

/-- `PLACEHOLDER`, the three bytes of `[?]` (R115). -/
def placeholder : List Byte := [0x5B, 0x3F, 0x5D]

/-- `VALID_CODE(b)` (00_scope.md R9, R114). -/
def validCode (p : Params) (c : Byte) : Bool := !p.invalidCodes.contains c

/-- `decode(b)`, the extract-side code map (R114). -/
def decodeChunk (p : Params) (c : Byte) : List Byte := if validCode p c then [c] else placeholder

/-! ## Extraction -/

/-- The carrier's text-mode bitstream X (R140). -/
def stream (px : List Pixel) : Bits := px.flatMap seq6

/-- The full 8-bit chunks of a bitstream (R141). -/
def fullChunks (x : Bits) : List Byte :=
  (List.range (x.length / 8)).map fun j => BitVec.ofNat 8 (uint ((x.drop (8 * j)).take 8))

/-- The final chunk of fewer than 8 bits, where there is one and `TAIL_MODE` keeps it (R141). -/
def tailChunk (mode : TailMode) (x : Bits) : List Byte :=
  if x.length % 8 = 0 then []
  else match mode with
    | .shortValue => [BitVec.ofNat 8 (uint (x.drop (8 * (x.length / 8))))]
    | .drop => []

/-- The regrouper (R141). -/
def regroup (mode : TailMode) (x : Bits) : List Byte := fullChunks x ++ tailChunk mode x

/-- The decoder's running text buffer D (R142). -/
def decodedText (p : Params) (px : List Pixel) : List Byte :=
  (regroup p.tailMode (stream px)).flatMap (decodeChunk p)

/-- The index of the first occurrence of SENTINEL, where there is one (R143). -/
def findSentinel : List Byte → Option Nat
  | [] => none
  | c :: cs => if (c :: cs).take 5 = sentinel then some 0 else (findSentinel cs).map (· + 1)

/-- The returned text: the bytes before the first SENTINEL, or all of them (R144). -/
def textBeforeSentinel (d : List Byte) : List Byte :=
  match findSentinel d with
  | some i => d.take i
  | none => d

/-! ## Weaving -/

/-- The frame F (R147). -/
def frame (text : List Word) : List Byte := text.map chr2byte ++ sentinel ++ pad text.length

/-- The frame's length N for a text of n characters (R147). -/
def frameLength (n : Nat) : Nat := n + 5 + n % 6

/-- The frame bitstream Y (R148). -/
def frameBits (text : List Word) : Bits := (frame text).flatMap bits8

/-- The pixel budget P for a text of n characters (R149). -/
def pixelBudget (n : Nat) : Nat := ceilDiv (8 * frameLength n) 6

/-- The payload bits of pixel n: Y[6n .. min(6n + 6, L)) (R152). -/
def payloadBits (y : Bits) (n : Nat) : Bits := (y.drop (6 * n)).take 6

/-- The woven pixel n: filler first (R151), then the payload bits where n is inside the budget P (R152). -/
def wovenPixel (y : Bits) (P n : Nat) (p : Pixel) (r : Draw) : Pixel :=
  if n < P then insPart222 (fill222 p r) (payloadBits y n) else fill222 p r

/-- The woven raster, pixel n taking draw n (R151 to R153). -/
def wovenRaster (draw : Nat → Draw) (y : Bits) (P : Nat) (px : List Pixel) : List Pixel :=
  px.mapIdx fun n p => wovenPixel y P n p (draw n)

end Sys2Proof.Machine
end

