-- ==== Sys2Proof/Machine/Operands.lean ====
section
/-! DEFINITION. The operands of a command (geometry and length values, 10_state.md R24, R28, R51), the checks on
them (60_exceptions.md R162, R163), and the word form of a register or a buffer element (10_state.md R22 to R31,
R41 to R44). -/

namespace Sys2Proof.Machine

/-- The operand values of the command: those latched, or where none runs those an accept would latch. -/
def State.operands (s : State) : Latched :=
  match s.seq with
  | .idle => s.toLatch
  | .run _ l _ => l

/-- K > CAR_DEPTH: the RANGE cause of every command (60_exceptions.md R163). -/
def State.carrierTooLarge (s : State) : Bool := decide (s.cfg.carDepth < s.operands.pixels)

/-- n > TXT_IN_DEPTH: the RANGE cause WEAVE_TXT has besides (R163). -/
def State.textTooLong (s : State) : Bool := decide (s.cfg.txtInDepth < s.operands.chars)

/-- EW ≠ W or EH ≠ H: WEAVE's size check (41_image_codec.md R132). -/
def State.sizesDiffer (s : State) : Bool :=
  s.operands.embW != s.operands.carW || s.operands.embH != s.operands.carH

/-- P > K: WEAVE_TXT's capacity check (42_text_codec.md R150). -/
def State.overCapacity (s : State) : Bool := decide (s.operands.pixels < pixelBudget s.operands.chars)

/-! ## Word forms -/

/-- `pixword(q)`: R in [7:0], G in [15:8], B in [23:16], 0 above (10_state.md R41, 41_image_codec.md R134). -/
def pixWord (q : Pixel) : Word := 0#8 ++ q.b ++ q.g ++ q.r

/-- The pixel of a word; bits [31:24] are ignored (10_state.md R41). -/
def pixelOfWord (w : Word) : Pixel where
  r := w.extractLsb' 0 8
  g := w.extractLsb' 8 8
  b := w.extractLsb' 16 8

/-- The word of an index or byte element: bits [31:8] read 0 (10_state.md R42, R44). -/
def byteWord (v : Byte) : Word := v.setWidth 32

/-- The index or byte of a word; bits [31:8] are ignored (10_state.md R42, R44). -/
def byteOfWord (w : Word) : Byte := w.extractLsb' 0 8

/-- The word a geometry register reads as: VAL in [15:0], 0 above (10_state.md R24). -/
def halfWord (v : Half) : Word := v.setWidth 32

/-- The VAL field of a word written to a geometry register (10_state.md R24). -/
def halfOfWord (w : Word) : Half := w.extractLsb' 0 16

/-- What OUT_LEN takes after `count` bytes (10_state.md R30): the count, and an open value where 32 bits do not hold
it (log 20). -/
def outLenWord (count : Nat) : Word :=
  if count < 2 ^ 32 then BitVec.ofNat 32 count else Config.longOutLen count

/-- What register `i` of space REG holds (10_state.md R23); 10 and above read 0 (R22). -/
def State.regWord (s : State) : Nat → Word
  | 0 => s.cmd
  | 1 => s.statusWord
  | 2 => halfWord s.carW
  | 3 => halfWord s.carH
  | 4 => halfWord s.embW
  | 5 => halfWord s.embH
  | 6 => s.txtLen
  | 7 => s.reqPix
  | 8 => s.outLen
  | 9 => s.progress
  | _ => 0

/-- What element `i` of space `S` holds, or nothing where it is unwritten. -/
def State.element (s : State) (S : Space) (i : Nat) : Option Word :=
  match S with
  | .reg => some (s.regWord i)
  | .car => (Buffer.read s.mem.car i).map pixWord
  | .emb => (Buffer.read s.mem.emb i).map byteWord
  | .tin => Buffer.read s.mem.tin i
  | .orgb => (Buffer.read s.mem.orgb i).map pixWord
  | .oidx => (Buffer.read s.mem.oidx i).map byteWord
  | .tout => (Buffer.read s.mem.tout i).map byteWord

/-- What element `i` of space `S` would hold with the buffers `m`. -/
def State.elementIn (s : State) (m : Memory) (S : Space) (i : Nat) : Option Word := ({ s with mem := m }).element S i

/-- Store word `w` in element `i` of buffer space `S`; REG is no buffer. -/
def Memory.storeWord (m : Memory) (S : Space) (i : Nat) (w : Word) : Memory :=
  match S with
  | .reg => m
  | .car => { m with car := Buffer.write m.car i (pixelOfWord w) }
  | .emb => { m with emb := Buffer.write m.emb i (byteOfWord w) }
  | .tin => { m with tin := Buffer.write m.tin i w }
  | .orgb => { m with orgb := Buffer.write m.orgb i (pixelOfWord w) }
  | .oidx => { m with oidx := Buffer.write m.oidx i (byteOfWord w) }
  | .tout => { m with tout := Buffer.write m.tout i (byteOfWord w) }

end Sys2Proof.Machine
end

