-- ==== Sys2Proof/Machine/ImageCodec.lean ====
section
/-! DEFINITION. The image codec's commands, EXTRACT and WEAVE (41_image_codec.md). -/

namespace Sys2Proof.Machine

/-- EXTRACT (R130): OIDX[n] is EXT332(CAR[n]) for every n < K. -/
def execExtract (s : State) : Host.Outcome State Fault Refusal :=
  if s.carrierTooLarge then .next (s.raiseError .range)
  else match Buffer.load s.mem.car s.operands.pixels with
    | none => .fault .blockReadUnwritten
    | some px =>
      .next ({ s with mem := { s.mem with oidx := Buffer.store s.mem.oidx (px.map ext332) } }.endOk
        s.operands.pixels false)

/-- WEAVE (R134): ORGB[n] is INS332(CAR[n], EMB[n]) for every n < K. -/
def execWeave (s : State) : Host.Outcome State Fault Refusal :=
  if s.carrierTooLarge then .next (s.raiseError .range)
  else if s.sizesDiffer then .next (s.raiseError .sizeMismatch)
  else match Buffer.load s.mem.car s.operands.pixels, Buffer.load s.mem.emb s.operands.pixels with
    | some px, some vs =>
      .next ({ s with mem := { s.mem with orgb := Buffer.store s.mem.orgb (List.zipWith ins332 px vs) } }.endOk
        s.operands.pixels false)
    | _, _ => .fault .blockReadUnwritten

end Sys2Proof.Machine
end

