-- ==== Sys2Proof/Machine/TextCodec.lean ====
section
/-! DEFINITION. The text codec's commands, EXTRACT_TXT and WEAVE_TXT (42_text_codec.md). -/

namespace Sys2Proof.Machine

/-- EXTRACT_TXT (R145): the text before the first sentinel to TOUT, its length to OUT_LEN, and SENT_FOUND. It
reads all of CAR[0 .. K−1], past the sentinel too (20_memory.md R74). -/
def execExtractTxt (s : State) : Host.Outcome State Fault Refusal :=
  if s.carrierTooLarge then .next (s.raiseError .range)
  else match Buffer.load s.mem.car s.operands.pixels with
    | none => .fault .blockReadUnwritten
    | some px =>
      let d := decodedText s.cfg px
      let out := textBeforeSentinel d
      .next ({ s with mem := { s.mem with tout := Buffer.store s.mem.tout out },
                      outLen := outLenWord out.length }.endOk s.operands.pixels (findSentinel d).isSome)

/-- REQ_PIX takes the pixel budget once the RANGE checks pass (R149, 10_state.md R29). -/
def State.withBudget (s : State) : State := { s with reqPix := BitVec.ofNat 32 (pixelBudget s.operands.chars) }

/-- The woven raster of a text: pixel n takes the n-th draw after those made so far (R151). -/
def State.wovenText (s : State) (text : List Word) (px : List Pixel) : List Pixel :=
  wovenRaster (fun n => Config.draw6 (s.draws + n)) (frameBits text) (pixelBudget s.operands.chars) px

/-- WEAVE_TXT (R153). The capacity check needs the length alone, so a capacity error reads no buffer element
(20_memory.md R74, log 9). On success it makes one draw per pixel (R151). -/
def execWeaveTxt (s : State) : Host.Outcome State Fault Refusal :=
  if s.carrierTooLarge || s.textTooLong then .next (s.raiseError .range)
  else if s.overCapacity then .next (s.withBudget.raiseError .capacityExceeded)
  else match Buffer.load s.mem.tin s.operands.chars, Buffer.load s.mem.car s.operands.pixels with
    | some text, some px =>
      .next ({ s.withBudget with mem := { s.mem with orgb := Buffer.store s.mem.orgb (s.wovenText text px) },
                                 draws := s.draws + s.operands.pixels }.endOk s.operands.pixels false)
    | _, _ => .fault .blockReadUnwritten

end Sys2Proof.Machine
end

