-- ==== Sys2Proof/Machine/Dispatch.lean ====
section
/-! DEFINITION. One arm per command: the atomic step of the sequencer from RUN to IDLE (20_memory.md R69). -/

namespace Sys2Proof.Machine

def exec (i : Instr) (s : State) : Host.Outcome State Fault Refusal :=
  match i with
  | .extract => Sys2Proof.Machine.execExtract s
  | .weave => Sys2Proof.Machine.execWeave s
  | .extractTxt => Sys2Proof.Machine.execExtractTxt s
  | .weaveTxt => Sys2Proof.Machine.execWeaveTxt s

end Sys2Proof.Machine
end

