-- ==== Sys2Proof/Machine/HostPort.lean ====
section
/-! DEFINITION. The sequencer's turn and the host port: word transactions (20_memory.md R60, R65 to R67), accesses
by byte address (R61, R62), polling (30_encoding.md R87), reset (70_reset_and_hazards.md R190), and which agent
moves next. -/

namespace Sys2Proof.Machine

/-- The sequencer ends the command it runs, in one atomic step (20_memory.md R69); when IDLE it does nothing
(60_exceptions.md R180). -/
def commandStep (s : State) : Host.Outcome State Fault Refusal :=
  match s.seq with
  | .idle => .next s
  | .run w _ _ =>
    match decode w with
    | .ok i => exec i s
    | .error _ => .next s.endIllegal

/-! ## Reads -/

/-- A HostRead returns `w`. -/
def State.answered (s : State) (w : Word) : State := { s with answer := w }

/-- A free choice is used up. -/
def State.choose (s : State) : State := { s with fresh := s.fresh + 1 }

/-- The host reads register or element `i` of `S`: a read of STATUS that returns BUSY = 0 shows it that the last command
has ended (70_reset_and_hazards.md R204, log 24), and from then on outputs read what they hold (20_memory.md R68). -/
def State.noticed (s : State) (S : Space) (i : Nat) : State :=
  { s with endUnseen := s.endUnseen && !(decide (S = .reg) && i == 1 && !s.busy),
           older := if decide (S = .reg) && i == 1 && !s.busy then [] else s.older }

/-- A HostRead returns what the element holds; an unwritten element faults (10_state.md R45, U4). -/
def answerElement (s : State) (v : Option Word) : Host.Outcome State Fault Refusal :=
  match v with
  | some w => .next (s.answered w)
  | none => .fault .hostReadUnwritten

/-- The buffers as they stand, or as they stood at a CMD write whose command the host has not seen end, and nothing says
which (70_reset_and_hazards.md R196, log 25). -/
def State.pickedMemory (s : State) : Memory :=
  (s.mem :: s.older).getD (Config.recency s.fresh % (s.older.length + 1)) s.mem

/-- A read of an output element until the host has seen the last command end: what it holds or has held since the host
last saw the block idle (R196). -/
def unsettledRead (s : State) (S : Space) (i : Nat) : Host.Outcome State Fault Refusal :=
  answerElement s.choose (s.elementIn s.pickedMemory S i)

/-- A read of an output element while BUSY: the old content, or the value the running command writes there, and
nothing says which (20_memory.md R67, U2). -/
def racedRead (s : State) (S : Space) (i : Nat) : Host.Outcome State Fault Refusal :=
  if Config.raceTakesNew s.fresh then
    match commandStep s with
    | .next t => answerElement s.choose (t.element S i)
    | .fault f => .fault f
    | .refused r => .refused r
  else unsettledRead s S i

/-- A read of a register while BUSY (20_memory.md R67): REQ_PIX and OUT_LEN any word, PROGRESS any value in
[0, W·H] of the running command, every other register its value. -/
def busyRegWord (s : State) (i : Nat) : Word :=
  if i = 7 ∨ i = 8 then Config.busyWord s.fresh
  else if i = 9 then BitVec.ofNat 32 (Config.busyProgress s.fresh % (s.operands.pixels + 1))
  else s.regWord i

/-- A HostRead of an element below the space's depth, while BUSY (20_memory.md R67). -/
def busyRead (s : State) (S : Space) (i : Nat) : Host.Outcome State Fault Refusal :=
  match S with
  | .reg => .next (s.choose.answered (busyRegWord s i))
  | .car | .emb | .tin => answerElement s (s.element S i)
  | .orgb | .oidx | .tout => racedRead s S i

/-- A HostRead of an element below the space's depth while IDLE, no read of STATUS having returned BUSY = 0 since the
last CMD write: ORGB, OIDX, TOUT, OUT_LEN and REQ_PIX read as while BUSY, any value (70_reset_and_hazards.md R196), and
everything else what it holds. -/
def unseenRead (s : State) (S : Space) (i : Nat) : Host.Outcome State Fault Refusal :=
  match S with
  | .reg =>
    if i = 7 ∨ i = 8 then .next (s.choose.answered (Config.busyWord s.fresh))
    else .next ((s.noticed .reg i).answered (s.regWord i))
  | .car | .emb | .tin => answerElement s (s.element S i)
  | .orgb | .oidx | .tout => unsettledRead s S i

/-- `HostRead(S, i)` (20_memory.md R60): past the end it returns 0 (R61); while IDLE, and the host having seen the last
command end, what the element holds. -/
def hostRead (s : State) (S : Space) (i : Nat) : Host.Outcome State Fault Refusal :=
  if s.cfg.depth S ≤ i then .next (s.answered 0)
  else if s.busy then busyRead s S i
  else if s.older.isEmpty then answerElement (s.noticed S i) (s.element S i)
  else unseenRead s S i

/-! ## Writes -/

/-- A write to register `i` while IDLE (10_state.md R23 to R31): CMD starts a command, STATUS clears WBUSY, the
geometry and length registers store, every other register is read-only or reserved. -/
def writeReg (s : State) (i : Nat) (w : Word) : State :=
  match i with
  | 0 => s.accept w
  | 1 => s.writeStatus w
  | 2 => { s with carW := halfOfWord w }
  | 3 => { s with carH := halfOfWord w }
  | 4 => { s with embW := halfOfWord w }
  | 5 => { s with embH := halfOfWord w }
  | 6 => { s with txtLen := w }
  | _ => s

/-- A HostWrite stores `w` in element `i` of buffer space `S`. The host sees its own writes (20_memory.md R68), so a later
read shows nothing the element held before. -/
def State.storeWord (s : State) (S : Space) (i : Nat) (w : Word) : State :=
  { s with mem := s.mem.storeWord S i w, older := s.older.map fun m => m.storeWord S i w }

/-- A HostWrite while IDLE (20_memory.md R65): past the end it has no effect (R61). -/
def idleWrite (s : State) (S : Space) (i : Nat) (w : Word) : State :=
  if s.cfg.depth S ≤ i then s
  else if S = .reg then writeReg s i w
  else s.storeWord S i w

/-- A HostWrite past a space's end while BUSY: lost, and whether it sets WBUSY is open (log 7). -/
def strayWrite (s : State) : State :=
  if Config.strayWriteFlags s.fresh then s.choose.setWbusy else s.choose

/-- A HostWrite while BUSY (20_memory.md R66): STATUS acts as when IDLE; any other write is lost and sets
WBUSY. -/
def busyWrite (s : State) (S : Space) (i : Nat) (w : Word) : State :=
  if S = .reg ∧ i = 1 then s.writeStatus w
  else if s.cfg.depth S ≤ i then strayWrite s
  else s.setWbusy

/-- `HostWrite(S, i, word32)` (20_memory.md R60). -/
def hostWrite (s : State) (S : Space) (i : Nat) (w : Word) : State :=
  if s.busy then busyWrite s S i w else idleWrite s S i w

/-! ## Reset -/

/-- How many draws the running command, if any, makes unless it is cut: K for a WEAVE_TXT that passes its checks
(42_text_codec.md R151), none for one that ends with RANGE or CAPACITY_EXCEEDED (R150) and for any other command. -/
def State.drawsInHand (s : State) : Nat :=
  match s.seq with
  | .idle => 0
  | .run w _ _ =>
    match decode w with
    | .ok .weaveTxt => if s.carrierTooLarge || s.textTooLong || s.overCapacity then 0 else s.operands.pixels
    | _ => 0

/-- The numbers, among the draws of the running command, of those it had not come to when reset cuts it: open, draw by
draw (70_reset_and_hazards.md R192, U11). -/
def State.drawsCutOff (s : State) : List Nat :=
  (List.range' s.draws s.drawsInHand).filter fun k => !Config.drewBeforeCut k

/-- Reset is asserted (70_reset_and_hazards.md R190 to R192): all architectural state as after power-on. The
implementation's parameters and what belongs to the host stay, what the host has seen of earlier commands included
(logs 23, 24); the numbers of the free choices go on. A host may have read the draws of the command that reset cuts
(20_memory.md R67), so none of them is made again: each call of draw6() is a fresh draw (00_scope.md R14, log 4). -/
def State.assertReset (s : State) : State :=
  { State.reset with cfg := s.cfg, draws := s.draws + s.drawsInHand, undrawn := s.undrawn ++ s.drawsCutOff,
                     fresh := s.fresh, inputs := s.inputs, answer := s.answer, endUnseen := s.endUnseen }

/-! ## Inputs -/

/-- The word of a write's data: the host's own, or what its last read returned (30_encoding.md R89). -/
def State.datum (s : State) : Datum → Word
  | .lit w => w
  | .answer => s.answer

/-- One transaction (30_encoding.md R88). -/
def transact (s : State) : Txn → Host.Outcome State Fault Refusal
  | .write S i d => .next (hostWrite s S i (s.datum d))
  | .read S i => hostRead s S i

/-- The byte address of element `i` of space `S` (20_memory.md R61). -/
def elementAddress (p : Params) (S : Space) (i : Nat) : Nat := p.base S + 4 * i

/-- The space whose byte range holds an address (20_memory.md R61). -/
def spaceAt (p : Params) (addr : Nat) : Option Space :=
  Space.all.find? fun S => decide (p.base S ≤ addr) && decide (addr < p.base S + 4 * p.depth S)

/-- The transaction on element `i` of `S` that a bus access carries. -/
def BusAccess.toTxn (a : BusAccess) (S : Space) (i : Nat) : Txn :=
  match a.data with
  | some d => .write S i d
  | none => .read S i

/-- An access by byte address (20_memory.md R61, R62): one aligned 32-bit word of one space, or refused. -/
def busInput (s : State) (a : BusAccess) : Host.Outcome State Fault Refusal :=
  if a.bytes ≠ 4 then .refused .unsupportedWidth
  else if a.addr % 4 ≠ 0 then .refused .misalignedAccess
  else match spaceAt s.cfg a.addr with
    | some S => transact s (a.toTxn S ((a.addr - s.cfg.base S) / 4))
    | none => .refused .outsideBlock

/-- One poll of `wait` (30_encoding.md R87): a read of STATUS; the host goes on polling while BUSY = 1. -/
def pollStatus (s : State) (rest : List Input) : State :=
  if s.busy then s.answered s.statusWord
  else { (s.noticed .reg 1).answered s.statusWord with inputs := rest }

/-- An input passes: a running command has one fewer to let pass. -/
def State.inputPasses (s : State) : State :=
  match s.seq with
  | .idle => s
  | .run w l due => { s with seq := .run w l (due - 1) }

/-- The host's turn: its next input takes effect. With none, nothing happens (60_exceptions.md R180). -/
def hostMove (s : State) : Host.Outcome State Fault Refusal :=
  match s.inputs with
  | [] => .next s
  | .txn t :: rest => transact { s.inputPasses with inputs := rest } t
  | .bus a :: rest => busInput { s.inputPasses with inputs := rest } a
  | .wait :: rest => .next (pollStatus s.inputPasses rest)
  | .reset :: rest => .next { s.assertReset with inputs := rest }
  | .txnDuringReset _ :: _ => .refused .overlapsReset

/-! ## Who moves -/

/-- Reset is what comes next; it outranks every other event (60_exceptions.md R173, 70_reset_and_hazards.md R190,
log 13). -/
def State.resetNext (s : State) : Bool :=
  match s.inputs with
  | .reset :: _ => true
  | .txnDuringReset _ :: _ => true
  | _ => false

/-- The sequencer moves when its command is due or the host has nothing to do, unless reset comes next (log 5,
log 13). -/
def State.sequencerMoves (s : State) : Bool :=
  match s.seq with
  | .idle => false
  | .run _ _ due => (due == 0 || s.inputs.isEmpty) && !s.resetNext

/-- One move of one agent. -/
def nextMove (s : State) : Host.Outcome State Fault Refusal :=
  if s.sequencerMoves then commandStep s else hostMove s

/-- The block holding an accepted command word that is due now: where the next step runs it (log 11). A reset
that would come first is taken away. -/
def State.holding (s : State) (w : Word) : State :=
  { s.enterRun w 0 with inputs := s.inputs.dropWhile fun
      | .reset => true
      | .txnDuringReset _ => true
      | _ => false }

end Sys2Proof.Machine
end

