-- ==== Sys2Proof/Machine/Step.lean ====
section
/-! DEFINITION. One step of the machine, and how a command word is put where the next step runs it. -/

namespace Sys2Proof.Machine

/-- One move of one agent: reset first, then a command that is due, then the host (00_scope.md R7, 20_memory.md
R68, R69). -/
def step (s : State) : Host.Outcome State Fault Refusal := nextMove s

/-- The block fetches nothing (30_encoding.md R80): an instruction comes to run by a CMD write. This is the state
right after the accepted write of the command word, with the command due (log 11). -/
def State.withFetchWord (s : State) (nbits w : Nat) : State := s.holding (tableWord nbits w)

end Sys2Proof.Machine
end

