-- ==== Sys2Proof/Machine/Program.lean ====
section
/-! DEFINITION. The end of a host program and what is observed of it (70_reset_and_hazards.md R204). -/

namespace Sys2Proof.Machine

/-- The input reads STATUS: a poll of `wait`, a read by index, or a read by byte address (30_encoding.md R87,
20_memory.md R61). -/
def Input.readsStatus (p : Params) : Input → Bool
  | .txn (.read S i) => decide (S = .reg) && i == 1
  | .bus a =>
    a.data.isNone && decide (spaceAt p a.addr = some .reg) && (a.addr - p.base .reg) / 4 == 1
  | .wait => true
  | _ => false

/-- The host's next input is a read of STATUS, and it returns BUSY = 0. -/
def State.readsIdleStatus (s : State) : Bool :=
  match s.inputs with
  | x :: _ => x.readsStatus s.cfg && !s.busy
  | [] => false

/-- The host program has ended: its last statement has been issued, no command runs, and if one was started, a STATUS
read has returned BUSY = 0 for the last one (R204). -/
def State.programEnded (s : State) : Bool := s.inputs.isEmpty && !s.busy && !s.endUnseen

/-- What is observed of a host program at its end (R204). -/
structure Observation where
  /-- The values of all registers, 0 to 15. -/
  registers : List Word
  /-- Every written element of every buffer. -/
  buffers   : Memory
  /-- The draws made, in the order of their numbers. -/
  draws     : List Draw
deriving DecidableEq, Repr

/-- The observation of a state (R204): it says nothing of time or of what a read while BUSY returned. -/
def State.observation (s : State) : Observation where
  registers := (List.range 16).map s.regWord
  buffers := s.mem
  draws := ((List.range s.draws).filter fun k => !s.undrawn.contains k).map Config.draw6

end Sys2Proof.Machine
end

