-- ==== Sys2Proof/Machine/Script.lean ====
section
/-! DEFINITION. Host-script notation (30_encoding.md R86 to R89): mnemonics, register names, statements and the
expansions of the pseudo-instructions, each as the inputs it stands for. -/

namespace Sys2Proof.Machine

/-- The mnemonic of a command (R86). -/
def mnemonicOf : Instr → String
  | .extract => "EXTRACT"
  | .weave => "WEAVE"
  | .extractTxt => "EXTRACT_TXT"
  | .weaveTxt => "WEAVE_TXT"

/-- The source's lower-case name of a command, accepted as a synonym (R86). -/
def synonymOf : Instr → String
  | .extract => "extract"
  | .weave => "weave"
  | .extractTxt => "extract_txt"
  | .weaveTxt => "weave_txt"

/-- The command a mnemonic or a synonym names (R86). -/
def commandNamed (name : String) : Option Instr :=
  [Instr.extract, Instr.weave, Instr.extractTxt, Instr.weaveTxt].find? fun i =>
    mnemonicOf i == name || synonymOf i == name

/-- The named registers (10_state.md R23). -/
inductive RegName
  | cmd | status | carW | carH | embW | embH | txtLen | reqPix | outLen | progress
deriving DecidableEq, Repr

/-- `idx(name)` (R23, R87). -/
def RegName.idx : RegName → Nat
  | .cmd => 0
  | .status => 1
  | .carW => 2
  | .carH => 3
  | .embW => 4
  | .embH => 5
  | .txtLen => 6
  | .reqPix => 7
  | .outLen => 8
  | .progress => 9

/-- `write REG.<name>, <v>` (R87). -/
def stmtWriteReg (r : RegName) (v : Word) : Input := .txn (.write .reg r.idx (.lit v))

/-- `write <S>[<i>], <v>` (R87). -/
def stmtWrite (S : Space) (i : Nat) (v : Word) : Input := .txn (.write S i (.lit v))

/-- `read REG.<name>` (R87). -/
def stmtReadReg (r : RegName) : Input := .txn (.read .reg r.idx)

/-- `read <S>[<i>]` (R87). -/
def stmtRead (S : Space) (i : Nat) : Input := .txn (.read S i)

/-- `cmd <MNEMONIC>` (R87). -/
def stmtCmd (i : Instr) : Input := .txn (.write .reg 0 (.lit (encode i)))

/-- `run <M>` (R89). -/
def stmtRun (i : Instr) : List Input := [stmtCmd i, .wait]

/-- `geom CAR, <W>, <H>` (R89). -/
def stmtGeomCar (w h : Word) : List Input := [stmtWriteReg .carW w, stmtWriteReg .carH h]

/-- `geom EMB, <W>, <H>` (R89). -/
def stmtGeomEmb (w h : Word) : List Input := [stmtWriteReg .embW w, stmtWriteReg .embH h]

/-- `pix <S>[<i>], (<r>,<g>,<b>)` (R89): r + 256·g + 65536·b. -/
def stmtPix (S : Space) (i : Nat) (r g b : Nat) : Input :=
  stmtWrite S i (BitVec.ofNat 32 (r + 256 * g + 65536 * b))

/-- `text "<c0 c1 ... c(n−1)>"` on the characters' code points (R89). -/
def stmtText (cs : List Word) : List Input :=
  cs.mapIdx (fun k c => stmtWrite .tin k c) ++ [stmtWriteReg .txtLen (BitVec.ofNat 32 cs.length)]

/-- `copy <S> -> <D>, <K>` (R89). -/
def stmtCopy (S D : Space) (K : Nat) : List Input :=
  (List.range K).flatMap fun k => [stmtRead S k, .txn (.write D k .answer)]

/-- `clrwbusy` (R89). -/
def stmtClrWbusy : Input := stmtWriteReg .status 0x200

end Sys2Proof.Machine
end

