-- ==== Sys2Proof/Safety.lean ====
section
/-! DEFINITION. What counts as a sound state and a well-prepared command, in the terms claims use. -/

namespace Sys2Proof.Machine

/-! ## What a command needs (70_reset_and_hazards.md R195) -/

/-- CAR[0 .. K−1] is written. -/
def State.carLoaded (s : State) : Prop := ∀ n < s.operands.pixels, (Buffer.read s.mem.car n).isSome = true

/-- EMB[0 .. K−1] is written. -/
def State.embLoaded (s : State) : Prop := ∀ n < s.operands.pixels, (Buffer.read s.mem.emb n).isSome = true

/-- TIN[0 .. n−1] is written. -/
def State.tinLoaded (s : State) : Prop := ∀ i < s.operands.chars, (Buffer.read s.mem.tin i).isSome = true

/-- A WEAVE_TXT runs that passes its RANGE and capacity checks (60_exceptions.md R163, 42_text_codec.md R150), so that it
draws filler. -/
def State.weavingText (s : State) : Prop :=
  ∃ w l d, s.seq = .run w l d ∧ decode w = .ok .weaveTxt ∧ l.pixels ≤ s.cfg.carDepth ∧ l.chars ≤ s.cfg.txtInDepth ∧
    ceilDiv (8 * (l.chars + 5 + l.chars % 6)) 6 ≤ l.pixels

/-- What a command needs to end without a fault: an error its checks give, whatever is written (20_memory.md R74), or every
element that it reads written (R195). -/
def State.ready (s : State) : Instr → Prop
  | .extract => s.cfg.carDepth < s.operands.pixels ∨ s.carLoaded
  | .weave =>
    s.cfg.carDepth < s.operands.pixels ∨ s.operands.embW ≠ s.operands.carW ∨ s.operands.embH ≠ s.operands.carH ∨
      (s.carLoaded ∧ s.embLoaded)
  | .extractTxt => s.cfg.carDepth < s.operands.pixels ∨ s.carLoaded
  | .weaveTxt =>
    s.cfg.carDepth < s.operands.pixels ∨ s.cfg.txtInDepth < s.operands.chars ∨
      s.operands.pixels < ceilDiv (8 * (s.operands.chars + 5 + s.operands.chars % 6)) 6 ∨ (s.carLoaded ∧ s.tinLoaded)

/-! ## The invariant of the block -/

/-- STATUS is one of the words the sequencer leaves (10_state.md R26, R27): while BUSY no command has ended;
before an end there is no result; after one OK says whether ERR is 0; SENT_FOUND goes with OK; ERR is never
NOT_FOUND (60_exceptions.md R169). -/
def State.statusSound (s : State) : Prop :=
  (s.busy = true → s.done = false) ∧
  (s.done = false → s.ok = false ∧ s.err = .none ∧ s.sentFound = false) ∧
  (s.done = true → s.ok = (s.err == .none)) ∧
  (s.sentFound = true → s.ok = true) ∧ s.err ≠ .notFound

/-- A running command holds the word CMD holds and the operands the registers hold, PROGRESS is still 0 (30_encoding.md
R81, 10_state.md R51), and the buffers are as they stood at its CMD write (20_memory.md R66, R69). -/
def State.runSound (s : State) : Prop :=
  match s.seq with
  | .idle => True
  | .run w l _ => w = s.cmd ∧ l = s.toLatch ∧ s.progress = 0 ∧ s.older.head? = some s.mem

/-- The result registers keep within the buffers (10_state.md R29 to R31). -/
def State.resultsBounded (s : State) : Prop :=
  s.progress.toNat ≤ s.cfg.carDepth ∧ s.outLen.toNat ≤ s.cfg.txtOutDepth ∧
    s.reqPix.toNat ≤ ceilDiv (8 * (s.cfg.txtInDepth + 10)) 6

/-- The memory, and each one that a read may still show, is in canonical form and every written element exists
(20_memory.md R61). -/
def State.memSound (s : State) : Prop := ∀ m ∈ s.mem :: s.older, m.wf = true ∧ m.within s.cfg = true

/-- The invariant: allowed parameters, a sound memory, status, sequencer and result registers. -/
def State.Sound (s : State) : Prop :=
  s.cfg.ok = true ∧ s.memSound ∧ s.statusSound ∧ s.runSound ∧ s.resultsBounded

/-! ## Frames -/

/-- Two states hold the same host-written registers, parameters, WBUSY and input buffers: what no command writes
(10_state.md R40, 20_memory.md R74). -/
def State.sameInputs (s t : State) : Prop :=
  t.cfg = s.cfg ∧ t.cmd = s.cmd ∧ t.wbusy = s.wbusy ∧ t.carW = s.carW ∧ t.carH = s.carH ∧ t.embW = s.embW ∧
    t.embH = s.embH ∧ t.txtLen = s.txtLen ∧ t.mem.car = s.mem.car ∧ t.mem.emb = s.mem.emb ∧ t.mem.tin = s.mem.tin

/-- Two states hold the same of the model's own fields: the host's inputs and last answer, what a read may still show,
and the numbers of the free choices. -/
def State.sameOutside (s t : State) : Prop :=
  t.inputs = s.inputs ∧ t.answer = s.answer ∧ t.older = s.older ∧ t.draws = s.draws ∧ t.undrawn = s.undrawn ∧
    t.fresh = s.fresh

/-- The flags, PROGRESS and the sequencer after a success of `K` pixels (60_exceptions.md R166, 10_state.md R27,
R31). -/
def State.endedOk (t : State) (K : Nat) (found : Bool) : Prop :=
  t.busy = false ∧ t.done = true ∧ t.ok = true ∧ t.err = .none ∧ t.sentFound = found ∧ t.progress = BitVec.ofNat 32 K

/-- The flags, PROGRESS and the sequencer after `raise Error(code)` (60_exceptions.md R165). -/
def State.endedWith (t : State) (code : ErrCode) : Prop :=
  t.busy = false ∧ t.done = true ∧ t.ok = false ∧ t.err = code ∧ t.sentFound = false ∧ t.progress = 0

/-! ## Slices of a pixel -/

/-- Two pixels agree on R[7:3], G[7:3] and B[7:2], what the 3/3/2 slicer keeps (40_bitslicer.md R110 law 3). -/
def Pixel.sameHigh332 (p q : Pixel) : Prop :=
  p.r.extractLsb 7 3 = q.r.extractLsb 7 3 ∧ p.g.extractLsb 7 3 = q.g.extractLsb 7 3 ∧
    p.b.extractLsb 7 2 = q.b.extractLsb 7 2

/-- Two pixels agree on the top six bits of every channel, what the 2/2/2 slicer keeps (R110 law 4). -/
def Pixel.sameHigh222 (p q : Pixel) : Prop :=
  p.r.extractLsb 7 2 = q.r.extractLsb 7 2 ∧ p.g.extractLsb 7 2 = q.g.extractLsb 7 2 ∧
    p.b.extractLsb 7 2 = q.b.extractLsb 7 2

/-- The six bits of a draw in lane order (R108). -/
def drawBits (r : Draw) : Bits :=
  [r.getLsbD 5, r.getLsbD 4, r.getLsbD 3, r.getLsbD 2, r.getLsbD 1, r.getLsbD 0]

/-! ## A detector that reads one byte at a time -/

/-- How many sentinel bytes are matched after one more byte: the next one expected, or the first one again, or
none (42_text_codec.md R146 item 3). -/
def scanByte (matched : Nat) (c : Byte) : Nat :=
  if sentinel[matched]? = some c then matched + 1 else if sentinel[0]? = some c then 1 else 0

/-- A streaming detector: `matched` sentinel bytes end at index `pos`. It answers the index where the first match
starts (R146 item 3). -/
def scanStream (matched pos : Nat) : List Byte → Option Nat
  | [] => none
  | c :: cs =>
    if scanByte matched c = 5 then some (pos - 4) else scanStream (scanByte matched c) (pos + 1) cs

end Sys2Proof.Machine
end

