-- ==== Sys2Proof/Certificates/Slice0/Obligations.lean ====
section
/-! DEFINITION. The statements for the provers, one definition each; every docstring names the rule it formalises. -/

open Sys2Proof Sys2Proof.Machine

/-! ## Encoding (30_encoding.md) -/

/-- R83: the four legal command words, each from its bytes as the bus holds them (20_memory.md R63). -/
def Obligations.CommandWordsDecodeToTheirRows : Prop :=
  decodeBytes [0x01, 0x00, 0x00, 0x00] = .ok (.extract, []) ∧
  decodeBytes [0x02, 0x00, 0x00, 0x00] = .ok (.weave, []) ∧
  decodeBytes [0x03, 0x00, 0x00, 0x00] = .ok (.extractTxt, []) ∧
  decodeBytes [0x04, 0x00, 0x00, 0x00] = .ok (.weaveTxt, []) ∧
  decode 0x00000000 = .error .noSuchOp ∧ decode 0x80000002 = .error .reservedBits

/-- R85 with R83's words: a word decodes to an operation exactly if it is that operation's word, and the four words
differ; every other word is ILLEGAL. -/
def Obligations.ExactlyFourWordsDecode : Prop :=
  (encode .extract = 0x00000001 ∧ encode .weave = 0x00000002 ∧ encode .extractTxt = 0x00000003 ∧
    encode .weaveTxt = 0x00000004) ∧
  (∀ (w : Word) (i : Instr), decode w = .ok i ↔ w = encode i) ∧
  (∀ i j : Instr, encode i = encode j → i = j) ∧
  (∀ w : Word, (∃ e, decode w = .error e) ↔ ∀ i, w ≠ encode i)

/-- 20_memory.md R63 with R82: four byte lanes, lane k being bits [8k+7 : 8k], decode as their word does, whatever
follows them; and an encoded instruction decodes to itself. -/
def Obligations.ByteLanesDecodeAsTheirWord : Prop :=
  (∀ (w : Word) (rest : List Byte),
    decodeBytes (lanesOfWord w ++ rest) = (decode w).map fun i => (i, rest)) ∧
  (∀ w : Word, wordOfLanes (byteLane w 0) (byteLane w 1) (byteLane w 2) (byteLane w 3) = w) ∧
  (∀ (i : Instr) (rest : List Byte), i.wellFormed = true → decodeBytes (encodeBytes i ++ rest) = .ok (i, rest))

/-! ## The bit-slicer (40_bitslicer.md) -/

/-- R100, R101: `bits8` gives bit 7 − i at place i; `uint` weighs the leftmost bit most, stays below 2^len, and
reads `bits8` back. -/
def Obligations.BitSequencesReadBack : Prop :=
  (∀ v : Byte, (bits8 v).length = 8 ∧ ∀ i < 8, (bits8 v)[i]? = some (v.getLsbD (7 - i))) ∧
  (∀ (c : Bool) (s : Bits), uint (c :: s) = c.toNat * 2 ^ s.length + uint s) ∧
  uint [] = 0 ∧ (∀ s : Bits, uint s < 2 ^ s.length) ∧ (∀ v : Byte, uint (bits8 v) = v.toNat)

/-- R103, R105: the places of the result bits of EXT332 and EXT222, lane by lane, their bit-sequence forms (the order R,
G, B of R64 and R109), and the corners. -/
def Obligations.SlicersTakeLowBitsInLaneOrder : Prop :=
  (∀ p : Pixel,
    (ext332 p).extractLsb 7 5 = p.r.extractLsb 2 0 ∧ (ext332 p).extractLsb 4 2 = p.g.extractLsb 2 0 ∧
    (ext332 p).extractLsb 1 0 = p.b.extractLsb 1 0 ∧
    (ext332 p).toNat = uint ((bits8 p.r).drop 5 ++ (bits8 p.g).drop 5 ++ (bits8 p.b).drop 6)) ∧
  (∀ p : Pixel,
    (ext222 p).extractLsb 5 4 = p.r.extractLsb 1 0 ∧ (ext222 p).extractLsb 3 2 = p.g.extractLsb 1 0 ∧
    (ext222 p).extractLsb 1 0 = p.b.extractLsb 1 0 ∧ uint (seq6 p) = (ext222 p).toNat ∧
    seq6 p = (bits8 p.r).drop 6 ++ (bits8 p.g).drop 6 ++ (bits8 p.b).drop 6) ∧
  ext332 ⟨0, 0, 0⟩ = 0 ∧ ext332 ⟨255, 255, 255⟩ = 255

/-- R110: the seven slicer laws. -/
def Obligations.SlicerLaws : Prop :=
  ∀ (p : Pixel) (v w : Byte) (g h : BitVec 6),
    ext332 (ins332 p v) = v ∧ ext222 (ins222 p g) = g ∧
    (ins332 p v).sameHigh332 p ∧ (ins222 p g).sameHigh222 p ∧
    ins332 p (ext332 p) = p ∧ ins222 p (ext222 p) = p ∧
    ins222 (ins222 p g) h = ins222 p h ∧ ins332 (ins332 p v) w = ins332 p w

/-- R107: the first k of a pixel's six low bits, in R, G, B order, are replaced by s, the other 6 − k and the top bits
are kept; k = 6 is INS222 and k = 0 the identity. In WEAVE_TXT k is 6 but for the last pixel of the budget, where it
may be 2 or 4. -/
def Obligations.PartialInsertionKeepsTheRest : Prop :=
  (∀ (p : Pixel) (s : Bits), s.length ≤ 6 →
    seq6 (insPart222 p s) = s ++ (seq6 p).drop s.length ∧ (insPart222 p s).sameHigh222 p ∧
    (s.length = 6 → insPart222 p s = ins222 p (BitVec.ofNat 6 (uint s))) ∧ (s = [] → insPart222 p s = p)) ∧
  ∀ (text : List Word) (n : Nat), n < pixelBudget text.length →
    (payloadBits (frameBits text) n).length = 6 ∨
      (n + 1 = pixelBudget text.length ∧
        ((payloadBits (frameBits text) n).length = 2 ∨ (payloadBits (frameBits text) n).length = 4))

/-- R111: the weave-side character map. -/
def Obligations.CharacterMapSubstitutes : Prop :=
  ∀ c : Word, (c.toNat ≤ 0xFF → (chr2byte c).toNat = c.toNat) ∧ (0xFF < c.toNat → chr2byte c = 0x3F)

/-- R116 items 1 to 3: the sentinel has no border, shares no byte with the placeholder, and its last byte is
above every value of six bits or fewer. -/
def Obligations.SentinelHasNoBorder : Prop :=
  (∀ k, 0 < k → k < 5 → sentinel.take k ≠ sentinel.drop (5 - k)) ∧ (∀ c ∈ placeholder, c ∉ sentinel) ∧
  (∀ s : Bits, s.length ≤ 6 → sentinel[4]? ≠ some (BitVec.ofNat 8 (uint s)))

/-- R112 to R115, 42_text_codec.md R147: the sentinel's bytes; an extracted code that VALID_CODE rejects becomes the
placeholder's three bytes and any other stays; the frame is the mapped text, the sentinel and (n mod 6) characters '0'.
The byte values are those the spec takes from general knowledge (log 18). -/
def Obligations.TextConstantsAndFrame : Prop :=
  sentinel = [0x7B, 0x23, 0xDF, 0x23, 0x7D] ∧
  (∀ (p : Params) (c : Byte),
    (c ∉ p.invalidCodes → decodeChunk p c = [c]) ∧ (c ∈ p.invalidCodes → decodeChunk p c = [0x5B, 0x3F, 0x5D])) ∧
  (∀ text : List Word,
    frame text = text.map chr2byte ++ [0x7B, 0x23, 0xDF, 0x23, 0x7D] ++ List.replicate (text.length % 6) 0x30) ∧
  frame [0x48, 0x69] = [0x48, 0x69, 0x7B, 0x23, 0xDF, 0x23, 0x7D, 0x30, 0x30]

/-! ## The text stages (42_text_codec.md) -/

/-- R143: the detector finds the least index where the sentinel stands, and finds one where it stands at all. With R144's
first two lines: the returned text is what stands before that index, and all of it where there is none. -/
def Obligations.DetectorFindsFirstSentinel : Prop :=
  ∀ (d : List Byte),
    (∀ i, findSentinel d = some i ↔
      (i + 5 ≤ d.length ∧ (d.drop i).take 5 = sentinel ∧ ∀ j < i, (d.drop j).take 5 ≠ sentinel)) ∧
    (∀ i, findSentinel d = some i → textBeforeSentinel d = d.take i) ∧
    (findSentinel d = none → textBeforeSentinel d = d)

/-- R146 item 3: a detector that reads one byte at a time, with no backtracking, finds the same index. -/
def Obligations.StreamingDetectorAgrees : Prop := ∀ d : List Byte, scanStream 0 0 d = findSentinel d

/-- R140: place 6n + k of the extraction stream is place k of pixel n's six low bits. R141: the full chunks hold the
bitstream's bits in order, there are floor(len / 8) of them, and the tail chunk is the value of the bits left, where there
are any and TAIL_MODE keeps it. R142 with R114, R115: the decoded text is each chunk in order, a code that VALID_CODE
rejects as the placeholder's three bytes. -/
def Obligations.RegrouperCutsTheStream : Prop :=
  (∀ px : List Pixel, (stream px).length = 6 * px.length ∧
    ∀ n k p, px[n]? = some p → k < 6 → (stream px)[6 * n + k]? = (seq6 p)[k]?) ∧
  (∀ (p : Params) (px : List Pixel),
    decodedText p px =
      ((regroup p.tailMode (stream px)).map fun c => if c ∈ p.invalidCodes then [0x5B, 0x3F, 0x5D] else [c]).flatten) ∧
  ∀ x : Bits,
    (fullChunks x).length = x.length / 8 ∧
    (fullChunks x).flatMap bits8 = x.take (8 * (x.length / 8)) ∧
    regroup .drop x = fullChunks x ∧
    (x.length % 8 = 0 → regroup .shortValue x = fullChunks x) ∧
    (x.length % 8 ≠ 0 → ∃ c : Byte, regroup .shortValue x = fullChunks x ++ [c] ∧
      c.toNat = uint (x.drop (8 * (x.length / 8))) ∧ c.toNat < 2 ^ (x.length % 8))

/-- R146 item 2: TAIL_MODE changes neither whether nor where the sentinel is found, so it changes no output where
one is found; where none is found, SHORT_VALUE adds at most one chunk's bytes at the end. -/
def Obligations.TailModeMattersOnlyWithoutSentinel : Prop :=
  ∀ (p : Params) (px : List Pixel),
    let short := decodedText { p with tailMode := .shortValue } px
    let dropped := decodedText { p with tailMode := .drop } px
    findSentinel short = findSentinel dropped ∧
    (findSentinel short ≠ none → textBeforeSentinel short = textBeforeSentinel dropped) ∧
    ∃ c : List Byte, short = dropped ++ c ∧ c.length ≤ 3

/-- R145's bound with 00_scope.md R9: the returned text never overflows TOUT. -/
def Obligations.ExtractedTextFitsTout : Prop :=
  ∀ (p : Params) (px : List Pixel), p.ok = true → px.length ≤ p.carDepth →
    (textBeforeSentinel (decodedText p px)).length ≤ 3 * ceilDiv (6 * px.length) 8 ∧
    (textBeforeSentinel (decodedText p px)).length ≤ p.txtOutDepth

/-- R147 to R149, R154: the frame's length, the bitstream's length and its bits, place 8j + k being bit 7 − k of byte j of
the frame, the budget as the least number of pixels that hold it, and when it fills its last pixel. R152: a pixel's payload
bits are the bitstream's next six, or what is left of it. -/
def Obligations.FrameLengthAndBudget : Prop :=
  (∀ (text : List Word) (j k : Nat) (c : Byte), (frame text)[j]? = some c → k < 8 →
    (frameBits text)[8 * j + k]? = some (c.getLsbD (7 - k))) ∧
  (∀ (y : Bits) (n : Nat), (payloadBits y n).length = min 6 (y.length - 6 * n) ∧
    ∀ k < 6, (payloadBits y n)[k]? = y[6 * n + k]?) ∧
  ∀ text : List Word,
    (frame text).length = text.length + 5 + text.length % 6 ∧
    (frameBits text).length = 8 * frameLength text.length ∧
    (∀ P, (frameBits text).length ≤ 6 * P ↔ pixelBudget text.length ≤ P) ∧
    ((frameBits text).length % 6 = 0 ↔ text.length % 6 = 2 ∨ text.length % 6 = 5) ∧
    ((frameBits text).length % 6 = 2 ↔ text.length % 6 = 1 ∨ text.length % 6 = 4) ∧
    ((frameBits text).length % 6 = 4 ↔ text.length % 6 = 0 ∨ text.length % 6 = 3)

/-- R151, R152, R156: a woven pixel keeps the carrier's top bits; inside the budget its low bits are the payload
bits, what they leave of the filler after them; beyond the budget they are the draw. -/
def Obligations.WovenPixelBits : Prop :=
  ∀ (y : Bits) (P n : Nat) (p : Pixel) (r : Draw),
    (wovenPixel y P n p r).sameHigh222 p ∧
    (P ≤ n → seq6 (wovenPixel y P n p r) = drawBits r) ∧
    (n < P → seq6 (wovenPixel y P n p r) =
      payloadBits y n ++ (drawBits r).drop (payloadBits y n).length)

/-! ## The commands: where each completes (41_image_codec.md, 42_text_codec.md) -/

/-- R130: with K ≤ CAR_DEPTH and CAR[0 .. K−1] written, EXTRACT ends OK, OIDX[n] is EXT332(CAR[n]) for n < K, and
OIDX from K up is as before. -/
def Obligations.ExtractCompletes : Prop :=
  ∀ s : State, s.operands.pixels ≤ s.cfg.carDepth → s.carLoaded →
    ∃ t, exec .extract s = .next t ∧ t.endedOk s.operands.pixels false ∧
      (∀ n p, n < s.operands.pixels → Buffer.read s.mem.car n = some p →
        Buffer.read t.mem.oidx n = some (ext332 p)) ∧
      ∀ n, s.operands.pixels ≤ n → Buffer.read t.mem.oidx n = Buffer.read s.mem.oidx n

/-- R134: with K ≤ CAR_DEPTH, equal dimensions and CAR and EMB written, WEAVE ends OK, ORGB[n] is
INS332(CAR[n], EMB[n]) for n < K, and ORGB from K up is as before. -/
def Obligations.WeaveCompletes : Prop :=
  ∀ s : State, s.operands.pixels ≤ s.cfg.carDepth → s.operands.embW = s.operands.carW →
    s.operands.embH = s.operands.carH → s.carLoaded → s.embLoaded →
    ∃ t, exec .weave s = .next t ∧ t.endedOk s.operands.pixels false ∧
      (∀ n p v, n < s.operands.pixels → Buffer.read s.mem.car n = some p → Buffer.read s.mem.emb n = some v →
        Buffer.read t.mem.orgb n = some (ins332 p v)) ∧
      ∀ n, s.operands.pixels ≤ n → Buffer.read t.mem.orgb n = Buffer.read s.mem.orgb n

/-- R145: with K ≤ CAR_DEPTH and the carrier's pixels `px` written, EXTRACT_TXT ends OK, TOUT holds the decoded text
before the first sentinel and is as before from there up, OUT_LEN is its length (where 32 bits hold it; it is a free
value elsewhere, log 20), SENT_FOUND says whether a sentinel was found. -/
def Obligations.ExtractTxtCompletes : Prop :=
  ∀ (s : State) (px : List Pixel), s.operands.pixels ≤ s.cfg.carDepth → px.length = s.operands.pixels →
    (∀ n < s.operands.pixels, Buffer.read s.mem.car n = px[n]?) →
    let d := decodedText s.cfg px
    let out := textBeforeSentinel d
    ∃ t, exec .extractTxt s = .next t ∧ t.endedOk s.operands.pixels (findSentinel d).isSome ∧
      (∀ j < out.length, Buffer.read t.mem.tout j = out[j]?) ∧
      (∀ j, out.length ≤ j → Buffer.read t.mem.tout j = Buffer.read s.mem.tout j) ∧
      (out.length < 2 ^ 32 → t.outLen.toNat = out.length)

/-- R153: with the ranges met, P ≤ K, TIN and CAR written, WEAVE_TXT ends OK with REQ_PIX = P and one draw a pixel;
ORGB[m] keeps CAR[m]'s top bits, its low bits are the payload bits inside the budget and the pixel's draw
elsewhere; ORGB from K up is as before. The draws are free values: this holds whatever they are. -/
def Obligations.WeaveTxtCompletes : Prop :=
  ∀ (s : State) (text : List Word), s.operands.pixels ≤ s.cfg.carDepth → s.operands.chars ≤ s.cfg.txtInDepth →
    ceilDiv (8 * (s.operands.chars + 5 + s.operands.chars % 6)) 6 ≤ s.operands.pixels →
    text.length = s.operands.chars → (∀ i < s.operands.chars, Buffer.read s.mem.tin i = text[i]?) → s.carLoaded →
    ∃ t, exec .weaveTxt s = .next t ∧ t.endedOk s.operands.pixels false ∧
      t.reqPix.toNat = ceilDiv (8 * (s.operands.chars + 5 + s.operands.chars % 6)) 6 ∧
      t.draws = s.draws + s.operands.pixels ∧
      (∀ m p, m < s.operands.pixels → Buffer.read s.mem.car m = some p →
        ∃ q, Buffer.read t.mem.orgb m = some q ∧ q.sameHigh222 p ∧
          seq6 q = payloadBits (frameBits text) m ++
            (drawBits (Config.draw6 (s.draws + m))).drop (payloadBits (frameBits text) m).length) ∧
      ∀ m, s.operands.pixels ≤ m → Buffer.read t.mem.orgb m = Buffer.read s.mem.orgb m

/-! ## The commands: errors (60_exceptions.md) -/

/-- R163: a command ends with RANGE if and only if W · H > CAR_DEPTH, or it is WEAVE_TXT and TXT_LEN > TXT_IN_DEPTH. It
then does so whatever elements are written, and no buffer and no other result register changes. W and H are the carrier's
geometry, and these are the K and n of every command (00_scope.md R10, 10_state.md R28). -/
def Obligations.RangeErrors : Prop :=
  (∀ s : State, s.operands.pixels = s.operands.carW.toNat * s.operands.carH.toNat ∧
    s.operands.chars = s.operands.txtLen.toNat) ∧
  ∀ (s : State) (i : Instr),
    let outOfRange := s.cfg.carDepth < s.operands.carW.toNat * s.operands.carH.toNat ∨
      (i = .weaveTxt ∧ s.cfg.txtInDepth < s.operands.txtLen.toNat)
    ((∃ t, exec i s = .next t ∧ t.err = .range) ↔ outOfRange) ∧
    (outOfRange → ∃ t, exec i s = .next t ∧ t.endedWith .range ∧ t.mem = s.mem ∧ t.reqPix = s.reqPix ∧
      t.outLen = s.outLen ∧ t.draws = s.draws)

/-- R136, R132: in range, a WEAVE whose embedded width or height differs from the carrier's ends with SIZE_MISMATCH,
writes no element of any buffer, and needs no element of EMB to be written. -/
def Obligations.SizeMismatch : Prop :=
  ∀ s : State, s.operands.pixels ≤ s.cfg.carDepth →
    (s.operands.embW ≠ s.operands.carW ∨ s.operands.embH ≠ s.operands.carH) →
    ∃ t, exec .weave s = .next t ∧ t.endedWith .sizeMismatch ∧ t.mem = s.mem

/-- R157, R150: WEAVE_TXT ends with CAPACITY_EXCEEDED if and only if the RANGE checks pass and the budget exceeds K;
then no buffer element is written, no draw is made, and REQ_PIX is the budget. -/
def Obligations.CapacityBoundary : Prop :=
  ∀ s : State, s.cfg.ok = true →
    ((∃ t, exec .weaveTxt s = .next t ∧ t.err = .capacityExceeded) ↔
      (s.operands.pixels ≤ s.cfg.carDepth ∧ s.operands.chars ≤ s.cfg.txtInDepth ∧
        s.operands.pixels < ceilDiv (8 * (s.operands.chars + 5 + s.operands.chars % 6)) 6)) ∧
    ∀ t, exec .weaveTxt s = .next t → t.err = .capacityExceeded →
      t.endedWith .capacityExceeded ∧ t.mem = s.mem ∧ t.draws = s.draws ∧
        t.reqPix.toNat = ceilDiv (8 * (s.operands.chars + 5 + s.operands.chars % 6)) 6

/-- R167: the errors each command can end with; and every command that ends does so with one of them or OK. -/
def Obligations.WhichCommandRaisesWhat : Prop :=
  ∀ (s t : State) (i : Instr), exec i s = .next t →
    t.ok = (t.err == .none) ∧
    match i with
    | .extract => t.err = .none ∨ t.err = .range
    | .weave => t.err = .none ∨ t.err = .range ∨ t.err = .sizeMismatch
    | .extractTxt => t.err = .none ∨ t.err = .range
    | .weaveTxt => t.err = .none ∨ t.err = .range ∨ t.err = .capacityExceeded

/-- R165: a running command, an illegal word included, that ends with an error sets the flags the rule gives, sets
PROGRESS to 0, writes no element of any buffer, leaves OUT_LEN, every input register, and REQ_PIX but for
CAPACITY_EXCEEDED, and is IDLE, so the next CMD write is accepted. -/
def Obligations.ErrorsLeaveNoPartialOutput : Prop :=
  ∀ s t : State, s.busy = true → commandStep s = .next t → t.err ≠ .none →
    t.endedWith t.err ∧ t.mem = s.mem ∧ t.outLen = s.outLen ∧ s.sameInputs t ∧
      (t.err ≠ .capacityExceeded → t.reqPix = s.reqPix) ∧ ∀ w, hostWrite t .reg 0 w = t.accept w

/-- R164: an accepted word that decodes to ILLEGAL ends with ILLEGAL_CMD; CMD holds the word and no buffer is written.
That it ends at the very next step, before any transaction of the host, is the model's reading of "at once" (log 8). -/
def Obligations.IllegalWordEndsAtOnce : Prop :=
  ∀ (s : State) (w : Word) (e : DecodeError), s.busy = false → decode w = .error e → s.resetNext = false →
    ∃ t, step (hostWrite s .reg 0 w) = .next t ∧ t.endedWith .illegalCmd ∧ t.cmd = w ∧ t.mem = s.mem ∧
      t.reqPix = s.reqPix ∧ t.outLen = s.outLen ∧ t.inputs = s.inputs

/-- 10_state.md R45, 70_reset_and_hazards.md R195: past its checks, a command that needs an unwritten element faults
(log 3). That WEAVE_TXT's capacity check comes before any read of TIN is the model's reading (log 9), and so is that
EXTRACT_TXT reads all K pixels (log 22). -/
def Obligations.UnwrittenElementFaultsCommand : Prop :=
  ∀ s : State, s.operands.pixels ≤ s.cfg.carDepth →
    (¬s.carLoaded → exec .extract s = .fault .blockReadUnwritten ∧ exec .extractTxt s = .fault .blockReadUnwritten) ∧
    (s.operands.embW = s.operands.carW → s.operands.embH = s.operands.carH → ¬(s.carLoaded ∧ s.embLoaded) →
      exec .weave s = .fault .blockReadUnwritten) ∧
    (s.operands.chars ≤ s.cfg.txtInDepth →
      ceilDiv (8 * (s.operands.chars + 5 + s.operands.chars % 6)) 6 ≤ s.operands.pixels →
      ¬(s.carLoaded ∧ s.tinLoaded) → exec .weaveTxt s = .fault .blockReadUnwritten)

/-! ## The commands: frames (20_memory.md R74) -/

/-- R74, rows EXTRACT and WEAVE: nothing but STATUS, PROGRESS and the command's output buffer changes, that one only
below K and only on success. -/
def Obligations.ImageCommandsFrame : Prop :=
  ∀ s t : State,
    (exec .extract s = .next t →
      s.sameInputs t ∧ s.sameOutside t ∧ t.reqPix = s.reqPix ∧ t.outLen = s.outLen ∧ t.mem.orgb = s.mem.orgb ∧
        t.mem.tout = s.mem.tout ∧
        ∀ n, (s.operands.pixels ≤ n ∨ t.ok = false) → Buffer.read t.mem.oidx n = Buffer.read s.mem.oidx n) ∧
    (exec .weave s = .next t →
      s.sameInputs t ∧ s.sameOutside t ∧ t.reqPix = s.reqPix ∧ t.outLen = s.outLen ∧ t.mem.oidx = s.mem.oidx ∧
        t.mem.tout = s.mem.tout ∧
        ∀ n, (s.operands.pixels ≤ n ∨ t.ok = false) → Buffer.read t.mem.orgb n = Buffer.read s.mem.orgb n)

/-- R74, rows EXTRACT_TXT and WEAVE_TXT: nothing but STATUS, PROGRESS, the output buffer, OUT_LEN (EXTRACT_TXT), REQ_PIX
and the draws made (WEAVE_TXT) changes; the buffer only on success, TOUT only below the length of the text written,
ORGB only below K; OUT_LEN only on success. -/
def Obligations.TextCommandsFrame : Prop :=
  ∀ s t : State,
    (exec .extractTxt s = .next t →
      s.sameInputs t ∧ s.sameOutside t ∧ t.reqPix = s.reqPix ∧ t.mem.orgb = s.mem.orgb ∧ t.mem.oidx = s.mem.oidx ∧
        (t.ok = false → t.outLen = s.outLen ∧ t.mem.tout = s.mem.tout) ∧
        ∀ px, Buffer.load s.mem.car s.operands.pixels = some px →
          ∀ j, (textBeforeSentinel (decodedText s.cfg px)).length ≤ j →
            Buffer.read t.mem.tout j = Buffer.read s.mem.tout j) ∧
    (exec .weaveTxt s = .next t →
      s.sameInputs t ∧ t.inputs = s.inputs ∧ t.answer = s.answer ∧ t.older = s.older ∧ t.undrawn = s.undrawn ∧ t.fresh = s.fresh ∧
        t.outLen = s.outLen ∧ t.mem.oidx = s.mem.oidx ∧ t.mem.tout = s.mem.tout ∧ (t.ok = false → t.draws = s.draws) ∧
        ∀ n, (s.operands.pixels ≤ n ∨ t.ok = false) → Buffer.read t.mem.orgb n = Buffer.read s.mem.orgb n)

/-- 20_memory.md R75, 00_scope.md R18: a command's result depends on no output buffer and on nothing earlier: two
states with the same operands, parameters, input buffers and draws end with the same flags and PROGRESS, and REQ_PIX,
OUT_LEN and each element of an output buffer end the same in both or are untouched in both. -/
def Obligations.CommandsReadNoOutputBuffer : Prop :=
  ∀ (s u t : State) (i : Instr), u.cfg = s.cfg → u.operands = s.operands → u.mem.car = s.mem.car →
    u.mem.emb = s.mem.emb → u.mem.tin = s.mem.tin → u.draws = s.draws → exec i s = .next t →
    ∃ v, exec i u = .next v ∧ v.ok = t.ok ∧ v.err = t.err ∧ v.sentFound = t.sentFound ∧ v.progress = t.progress ∧
      v.draws = t.draws ∧
      (v.reqPix = t.reqPix ∨ (v.reqPix = u.reqPix ∧ t.reqPix = s.reqPix)) ∧
      (v.outLen = t.outLen ∨ (v.outLen = u.outLen ∧ t.outLen = s.outLen)) ∧
      (∀ n, Buffer.read v.mem.oidx n = Buffer.read t.mem.oidx n ∨
        (Buffer.read v.mem.oidx n = Buffer.read u.mem.oidx n ∧ Buffer.read t.mem.oidx n = Buffer.read s.mem.oidx n)) ∧
      (∀ n, Buffer.read v.mem.orgb n = Buffer.read t.mem.orgb n ∨
        (Buffer.read v.mem.orgb n = Buffer.read u.mem.orgb n ∧ Buffer.read t.mem.orgb n = Buffer.read s.mem.orgb n)) ∧
      (∀ n, Buffer.read v.mem.tout n = Buffer.read t.mem.tout n ∨
        (Buffer.read v.mem.tout n = Buffer.read u.mem.tout n ∧ Buffer.read t.mem.tout n = Buffer.read s.mem.tout n))

/-! ## Round trips -/

/-- 41_image_codec.md R135: WEAVE any embedded raster over any carrier of its size, copy ORGB to CAR, EXTRACT: OIDX is
the embedded raster. -/
def Obligations.ImageRoundTrip : Prop :=
  ∀ s : State, s.operands.pixels ≤ s.cfg.carDepth → s.operands.embW = s.operands.carW →
    s.operands.embH = s.operands.carH → s.carLoaded → s.embLoaded →
    ∃ t, exec .weave s = .next t ∧ t.ok = true ∧
      ∀ u : State, u.cfg = s.cfg → u.operands.pixels = s.operands.pixels →
        (∀ n < s.operands.pixels, Buffer.read u.mem.car n = Buffer.read t.mem.orgb n) →
        ∃ v, exec .extract u = .next v ∧ v.ok = true ∧
          ∀ n < s.operands.pixels, Buffer.read v.mem.oidx n = Buffer.read s.mem.emb n

/-- 42_text_codec.md R155: WEAVE_TXT a text of valid codes over enough carrier, copy ORGB to CAR, EXTRACT_TXT: what comes
back is the text before its first sentinel, a character above 0xFF as '?', with SENT_FOUND = 1; so a text with no
sentinel inside and every code point ≤ 0xFF comes back whole. The draws are free values. -/
def Obligations.TextRoundTrip : Prop :=
  ∀ (s : State) (text : List Word), s.operands.pixels ≤ s.cfg.carDepth → s.operands.chars ≤ s.cfg.txtInDepth →
    ceilDiv (8 * (s.operands.chars + 5 + s.operands.chars % 6)) 6 ≤ s.operands.pixels →
    text.length = s.operands.chars → (∀ i < s.operands.chars, Buffer.read s.mem.tin i = text[i]?) → s.carLoaded →
    (∀ c ∈ text.map chr2byte ++ sentinel, validCode s.cfg c = true) →
    ∃ t, exec .weaveTxt s = .next t ∧ t.ok = true ∧
      ∀ u : State, u.cfg = s.cfg → u.operands.pixels = s.operands.pixels →
        (∀ n < s.operands.pixels, Buffer.read u.mem.car n = Buffer.read t.mem.orgb n) →
        let m := (findSentinel (text.map chr2byte)).getD text.length
        ∃ v, exec .extractTxt u = .next v ∧ v.ok = true ∧ v.sentFound = true ∧ v.outLen.toNat = m ∧
          (∀ i c, i < m → text[i]? = some c →
            Buffer.read v.mem.tout i = some (if c.toNat ≤ 0xFF then c.setWidth 8 else 0x3F)) ∧
          ((∀ j, ((text.map chr2byte).drop j).take 5 ≠ sentinel) → (∀ c ∈ text, c.toNat ≤ 0xFF) →
            v.outLen.toNat = text.length ∧
            ∀ i c, text[i]? = some c → (Buffer.read v.mem.tout i).map byteWord = some c)

/-! ## The host port (10_state.md, 20_memory.md) -/

/-- 30_encoding.md R81: what an accepted CMD write does, whatever the word. Of the model's own fields it keeps what the
buffers held, for reads before the host has seen the end (log 25), and takes a free count of inputs to pass (log 5): both
are the model's choices. -/
def Obligations.AcceptedCmdWrite : Prop :=
  ∀ (s : State) (w : Word), s.busy = false →
    ∃ d, hostWrite s .reg 0 w =
      { s with cmd := w, done := false, ok := false, err := .none, sentFound := false, progress := 0,
               seq := .run w ⟨s.carW, s.carH, s.embW, s.embH, s.txtLen⟩ d, older := s.mem :: s.older,
               fresh := s.fresh + 1 }

/-- 20_memory.md R66: while BUSY, a write to any element but STATUS has no effect but to set WBUSY, and a STATUS write
acts as R26 says. A write past a space's end changes nothing but WBUSY either; whether it sets that flag is a free
value of the model (log 7). -/
def Obligations.BusyWritesAreLost : Prop :=
  ∀ (s : State) (S : Space) (i : Nat) (w : Word), s.busy = true →
    (i < s.cfg.depth S → (S, i) ≠ (.reg, 1) → hostWrite s S i w = { s with wbusy := true }) ∧
    hostWrite s .reg 1 w = { s with wbusy := s.wbusy && !w.getLsbD 9 } ∧
    (s.cfg.depth S ≤ i →
      ∃ b, hostWrite s S i w = { s with wbusy := b, fresh := s.fresh + 1 } ∧ (s.wbusy = true → b = true))

/-- 10_state.md R22 to R31: what a register write does while IDLE, register by register: the geometry registers keep
[15:0], TXT_LEN the whole word, STATUS only clears WBUSY, and registers 7 to 15 ignore it. -/
def Obligations.IdleRegisterWrites : Prop :=
  ∀ (s : State) (w : Word), s.busy = false →
    hostWrite s .reg 1 w = { s with wbusy := s.wbusy && !w.getLsbD 9 } ∧
    hostWrite s .reg 2 w = { s with carW := w.extractLsb' 0 16 } ∧
    hostWrite s .reg 3 w = { s with carH := w.extractLsb' 0 16 } ∧
    hostWrite s .reg 4 w = { s with embW := w.extractLsb' 0 16 } ∧
    hostWrite s .reg 5 w = { s with embH := w.extractLsb' 0 16 } ∧
    hostWrite s .reg 6 w = { s with txtLen := w } ∧
    ∀ i, 7 ≤ i → hostWrite s .reg i w = s

/-- 10_state.md R23 to R31: what a register read answers while IDLE; registers 10 and above read 0, and the reserved
bits of a geometry register read 0. The read of STATUS also shows the host that the last command has ended (logs 24, 25);
until then REQ_PIX and OUT_LEN read any value (70_reset_and_hazards.md R196), a free value of the model. -/
def Obligations.IdleRegisterReads : Prop :=
  ∀ s : State, s.busy = false →
    hostRead s .reg 0 = .next { s with answer := s.cmd } ∧
    hostRead s .reg 1 = .next { s with answer := s.statusWord, endUnseen := false, older := [] } ∧
    (∃ a b c d : Word,
      hostRead s .reg 2 = .next { s with answer := a } ∧ a.toNat = s.carW.toNat ∧
      hostRead s .reg 3 = .next { s with answer := b } ∧ b.toNat = s.carH.toNat ∧
      hostRead s .reg 4 = .next { s with answer := c } ∧ c.toNat = s.embW.toNat ∧
      hostRead s .reg 5 = .next { s with answer := d } ∧ d.toNat = s.embH.toNat) ∧
    hostRead s .reg 6 = .next { s with answer := s.txtLen } ∧
    (s.older = [] → hostRead s .reg 7 = .next { s with answer := s.reqPix } ∧
      hostRead s .reg 8 = .next { s with answer := s.outLen }) ∧
    (s.older ≠ [] → ∃ a b, hostRead s .reg 7 = .next { s with answer := a, fresh := s.fresh + 1 } ∧
      hostRead s .reg 8 = .next { s with answer := b, fresh := s.fresh + 1 }) ∧
    hostRead s .reg 9 = .next { s with answer := s.progress } ∧
    ∀ i, 10 ≤ i → hostRead s .reg i = .next { s with answer := 0 }

/-- 10_state.md R26, 60_exceptions.md R161: the bits of a STATUS read; [3] and [31:10] are 0; and the number of each
error code. -/
def Obligations.StatusWordLayout : Prop :=
  ∀ s : State,
    s.statusWord.getLsbD 0 = s.busy ∧ s.statusWord.getLsbD 1 = s.done ∧ s.statusWord.getLsbD 2 = s.ok ∧
    s.statusWord.getLsbD 3 = false ∧
    s.statusWord.getLsbD 8 = s.sentFound ∧ s.statusWord.getLsbD 9 = s.wbusy ∧
    (∀ k, 10 ≤ k → s.statusWord.getLsbD k = false) ∧
    s.statusWord.extractLsb' 4 4 = match s.err with
      | .none => 0
      | .notFound => 1
      | .sizeMismatch => 2
      | .capacityExceeded => 3
      | .illegalCmd => 4
      | .range => 5

/-- 10_state.md R41 to R44 with 20_memory.md R65: while IDLE, a buffer write stores the element the word holds, a pixel's R
in [7:0], G in [15:8] and B in [23:16], and then a read of the same element answers the word with its reserved bits 0. That
it does so of an output space also where the host has not seen the last command
end is the model's choice (log 25), which takes R68's "the host sees its own writes" over 70_reset_and_hazards.md R196;
and every other element of every space holds what it held, and may still show what it might (log 25). -/
def Obligations.WriteThenReadElement : Prop :=
  ∀ (s : State) (S : Space) (i : Nat) (w : Word), s.busy = false → S ≠ .reg → i < s.cfg.depth S →
    (∃ a f, hostRead (hostWrite s S i w) S i = .next { hostWrite s S i w with answer := a, fresh := f } ∧
      a = match S with
        | .car | .orgb => w &&& 0x00FFFFFF
        | .emb | .oidx | .tout => w &&& 0x000000FF
        | _ => w) ∧
    (let m := (hostWrite s S i w).mem
      let q : Pixel := { r := w.extractLsb' 0 8, g := w.extractLsb' 8 8, b := w.extractLsb' 16 8 }
      match S with
      | .car => Buffer.read m.car i = some q
      | .emb => Buffer.read m.emb i = some (w.extractLsb' 0 8)
      | .tin => Buffer.read m.tin i = some w
      | .orgb => Buffer.read m.orgb i = some q
      | .oidx => Buffer.read m.oidx i = some (w.extractLsb' 0 8)
      | .tout => Buffer.read m.tout i = some (w.extractLsb' 0 8)
      | .reg => True) ∧
    ∀ T j, (T, j) ≠ (S, i) → (hostWrite s S i w).element T j = s.element T j ∧
      (hostWrite s S i w).older.map (fun m => s.elementIn m T j) = s.older.map (fun m => s.elementIn m T j)

/-- 20_memory.md R61: the depth of each space; past a space's end a read answers 0, and a write while IDLE changes
nothing. -/
def Obligations.PastTheEnd : Prop :=
  (∀ p : Params, p.depth .reg = 16 ∧ p.depth .car = p.carDepth ∧ p.depth .emb = p.carDepth ∧
    p.depth .tin = p.txtInDepth ∧ p.depth .orgb = p.carDepth ∧ p.depth .oidx = p.carDepth ∧
    p.depth .tout = p.txtOutDepth) ∧
  ∀ (s : State) (S : Space) (i : Nat) (w : Word), s.cfg.depth S ≤ i →
    hostRead s S i = .next { s with answer := 0 } ∧ (s.busy = false → hostWrite s S i w = s)

/-- 20_memory.md R65: a host read changes no register, no buffer element and no state of the sequencer: only what the
host has seen (its answer, and whether it knows of the last command's end, logs 24 and 25) and the model's count of free
choices. -/
def Obligations.ReadsHaveNoSideEffect : Prop :=
  ∀ (s t : State) (S : Space) (i : Nat), hostRead s S i = .next t →
    t = { s with answer := t.answer, fresh := t.fresh, endUnseen := t.endUnseen, older := t.older } ∧
      (t.older = s.older ∨ t.older = [])

/-- 10_state.md R45: a host read of an unwritten element of a buffer, while IDLE, faults (log 3); of a written one it
answers what the element holds. This holds of the input spaces always, and of every space once the host has seen the last
command end, which leaves nothing older to read (20_memory.md R68 item 2, log 25). -/
def Obligations.HostReadOfUnwrittenFaults : Prop :=
  ∀ (s : State) (S : Space) (i : Nat), s.busy = false → i < s.cfg.depth S →
    (s.older = [] ∨ S = .car ∨ S = .emb ∨ S = .tin) →
    (s.element S i = none → hostRead s S i = .fault .hostReadUnwritten) ∧
    ∀ w, s.element S i = some w →
      hostRead s S i = .next { s with answer := w, endUnseen := if (S, i) = (.reg, 1) then false else s.endUnseen }

/-- 20_memory.md R67, 70_reset_and_hazards.md R196: what a read answers from the CMD write until a read of STATUS has
returned BUSY = 0. While BUSY every register answers: STATUS BUSY = 1, every result flag 0 and the current WBUSY (in a
state that keeps R26, which the invariant gives), registers 0 to 6 what they hold, REQ_PIX and OUT_LEN any word, PROGRESS
a value in [0, W·H], a reserved register 0; an element of an input space answers what it holds, and faults where it is
unwritten; an output element answers its old content, or one it had before a command whose end the host has not seen, or
what the running command leaves there, and faults where the one it takes is unwritten or that command faults. After the
end, the host not having seen it, an output element answers what it holds or such an older content, and faults where that
one is unwritten; one that holds what it held then answers exactly that. The values left open are free values (logs 6,
25). -/
def Obligations.ReadsUntilTheEndIsSeen : Prop :=
  (∀ (s : State) (w : Word) (l : Latched) (d : Nat), s.seq = .run w l d →
    (s.statusSound →
      ∃ f, hostRead s .reg 1 = .next { s with answer := if s.wbusy then 0x201 else 0x001, fresh := f }) ∧
    (∀ i < 7, ∃ f, hostRead s .reg i = .next { s with answer := s.regWord i, fresh := f }) ∧
    (∃ a b f, hostRead s .reg 7 = .next { s with answer := a, fresh := f } ∧
      hostRead s .reg 8 = .next { s with answer := b, fresh := f }) ∧
    (∃ a f, hostRead s .reg 9 = .next { s with answer := a, fresh := f } ∧ a.toNat ≤ l.pixels) ∧
    (∀ i, 10 ≤ i → ∃ f, hostRead s .reg i = .next { s with answer := 0, fresh := f }) ∧
    (∀ S i, S = .car ∨ S = .emb ∨ S = .tin → i < s.cfg.depth S →
      (∀ a, s.element S i = some a → ∃ f, hostRead s S i = .next { s with answer := a, fresh := f }) ∧
      (s.element S i = none → hostRead s S i = .fault .hostReadUnwritten)) ∧
    ∀ S i, S = .orgb ∨ S = .oidx ∨ S = .tout → i < s.cfg.depth S →
      (∃ f, commandStep s = .fault f ∧ hostRead s S i = .fault f) ∨
      ∃ v : Option Word,
        ((∃ m ∈ s.mem :: s.older, s.elementIn m S i = v) ∨ ∃ t, commandStep s = .next t ∧ t.element S i = v) ∧
        match v with
        | some a => ∃ f, hostRead s S i = .next { s with answer := a, fresh := f }
        | none => hostRead s S i = .fault .hostReadUnwritten) ∧
  ∀ (s : State) (S : Space) (i : Nat), s.busy = false → S = .orgb ∨ S = .oidx ∨ S = .tout → i < s.cfg.depth S →
    (∃ m ∈ s.mem :: s.older, (s.elementIn m S i = none ∧ hostRead s S i = .fault .hostReadUnwritten) ∨
      ∃ a f, s.elementIn m S i = some a ∧ hostRead s S i = .next { s with answer := a, fresh := f }) ∧
    ∀ a, (∀ m ∈ s.mem :: s.older, s.elementIn m S i = some a) →
      ∃ f, hostRead s S i = .next { s with answer := a, fresh := f }

/-- 20_memory.md R61, with 00_scope.md R9's constraints on the bases: a 32-bit access at BASE_S + 4·i is the transaction
on element i of S. -/
def Obligations.BusAccessIsItsTransaction : Prop :=
  ∀ (s : State) (S : Space) (i : Nat) (data : Option Datum), s.cfg.ok = true → i < s.cfg.depth S →
    busInput s ⟨s.cfg.base S + 4 * i, 4, data⟩ =
      match data with
      | some v => .next (hostWrite s S i (s.datum v))
      | none => hostRead s S i

/-- 20_memory.md R62, U5, R61, 70_reset_and_hazards.md R190, U6: a misaligned access, and one that is not 32 bits wide, are
refused; so are an access at an address in no space and, by the step, a transaction that overlaps reset. The names they
are refused by, and that an access of a wrong width is refused for its width, misaligned or not, are the model's choice, and
so is that the model refuses an access in no space, which R61 leaves to the platform (log 15). -/
def Obligations.UnsupportedBusAccessRefused : Prop :=
  (∀ (s : State) (addr bytes : Nat) (data : Option Datum),
    (bytes ≠ 4 → busInput s ⟨addr, bytes, data⟩ = .refused .unsupportedWidth) ∧
    (addr % 4 ≠ 0 → busInput s ⟨addr, 4, data⟩ = .refused .misalignedAccess) ∧
    (addr % 4 = 0 → (∀ S, addr < s.cfg.base S ∨ s.cfg.base S + 4 * s.cfg.depth S ≤ addr) →
      busInput s ⟨addr, 4, data⟩ = .refused .outsideBlock)) ∧
  ∀ (s : State) (x : Txn) (rest : List Input), s.inputs = .txnDuringReset x :: rest → step s = .refused .overlapsReset

/-- 30_encoding.md R89 `copy`, one element of it from ORGB to CAR: two steps of the host read the woven pixel and write
it to CAR, and no other element of any space changes. The host has seen the last command end, by `wait` (70 R196), so
nothing older can be read (log 25). -/
def Obligations.CopyMovesOneElement : Prop :=
  ∀ (s : State) (k : Nat) (p : Pixel) (rest : List Input), s.seq = .idle → s.older = [] → k < s.cfg.carDepth →
    s.inputs = [stmtRead .orgb k, .txn (.write .car k .answer)] ++ rest → Buffer.read s.mem.orgb k = some p →
    ∃ t u, step s = .next t ∧ step t = .next u ∧ u.inputs = rest ∧ u.seq = .idle ∧
      Buffer.read u.mem.car k = some p ∧
      ∀ S i, (S, i) ≠ (.car, k) → u.element S i = s.element S i

/-! ## The machine -/

/-- 30_encoding.md R85, 20_memory.md R69: the sequencer's step on an accepted word that decodes to i is exec of i, with
nothing around it. When it moves is the model's choice: where the command is due or the host has nothing more to do
(log 5), and no reset comes next (log 13). That `withFetchWord` makes such a state is the model's too (log 11). Where the
sequencer does not move, the step is the host's next input, one transaction at a time (R60, R68), on the state with that
input taken and a running command's count lowered (logs 5, 12): a write, a read, an access by byte address, or a poll of
`wait` (30_encoding.md R87), which stays while BUSY. -/
def Obligations.StepRunsDecodedCommand : Prop :=
  (∀ (s : State) (w : Word) (l : Latched) (d : Nat) (i : Instr), s.seq = .run w l d → decode w = .ok i →
    (d = 0 ∨ s.inputs = []) → s.resetNext = false → step s = exec i s) ∧
  (∀ (s : State) (nbits w : Nat) (i : Instr), decodeTableWord nbits w = some i →
    step (s.withFetchWord nbits w) = exec i (s.withFetchWord nbits w)) ∧
  ∀ (s u : State) (x : Input) (rest : List Input), s.inputs = x :: rest →
    ((s.seq = .idle ∧ u = { s with inputs := rest }) ∨
      ∃ w l d, s.seq = .run w l (d + 1) ∧ u = { s with seq := .run w l d, inputs := rest }) →
    match x with
    | .txn (.write S i v) => step s = .next (hostWrite u S i (s.datum v))
    | .txn (.read S i) => step s = hostRead u S i
    | .bus a => step s = busInput u a
    | .wait => step s = .next
        (if s.busy then { u with answer := s.statusWord, inputs := .wait :: rest }
          else { u with answer := s.statusWord, endUnseen := false, older := [] })
    | .reset => step s = .next { s.assertReset with inputs := rest }
    | .txnDuringReset _ => step s = .refused .overlapsReset

/-- 60_exceptions.md R180: an IDLE block with no input stays as it is. -/
def Obligations.IdleBlockStays : Prop := ∀ s : State, s.seq = .idle → s.inputs = [] → step s = .next s

/-- 70_reset_and_hazards.md R193: the registers, the sequencer and the buffers after power-on. -/
def Obligations.ResetValues : Prop :=
  State.reset.cmd = 0 ∧ State.reset.statusWord = 0 ∧ State.reset.carW = 0 ∧ State.reset.carH = 0 ∧
  State.reset.embW = 0 ∧ State.reset.embH = 0 ∧ State.reset.txtLen = 0 ∧ State.reset.reqPix = 0 ∧
  State.reset.outLen = 0 ∧ State.reset.progress = 0 ∧ State.reset.seq = .idle ∧
  ∀ S i, S ≠ .reg → State.reset.element S i = none

/-- 70_reset_and_hazards.md R190 to R192, 60_exceptions.md R173: asserted reset comes before anything else, a running and
due command included (log 13): every register takes its reset value, the sequencer is IDLE and every element is
unwritten, with nothing older to read; the parameters stay. The K draws of a cut WEAVE_TXT that passes its checks are not
made again (00_scope.md R14), and which of them it had made is open; no other reset passes over a draw (log 4). -/
def Obligations.ResetOutranksAndClears : Prop :=
  ∀ (s : State) (rest : List Input), s.inputs = .reset :: rest →
    ∃ t, step s = .next t ∧ t.inputs = rest ∧ t.cfg = s.cfg ∧ t.seq = .idle ∧ t.statusWord = 0 ∧ t.cmd = 0 ∧
      t.carW = 0 ∧ t.carH = 0 ∧ t.embW = 0 ∧ t.embH = 0 ∧ t.txtLen = 0 ∧ t.reqPix = 0 ∧ t.outLen = 0 ∧
      t.progress = 0 ∧ (∀ S i, S ≠ .reg → t.element S i = none) ∧
      t.older = [] ∧
      (s.weavingText → t.draws = s.draws + s.operands.pixels) ∧
      (¬s.weavingText → t.draws = s.draws ∧ t.undrawn = s.undrawn) ∧
      (∀ k ∈ s.undrawn, k ∈ t.undrawn) ∧ ∀ k ∈ t.undrawn, k ∈ s.undrawn ∨ (s.draws ≤ k ∧ k < t.draws)

/-- The invariant holds after reset. -/
def Obligations.ResetIsSound : Prop := State.reset.Sound

/-- Every step keeps the invariant, which is the model's: allowed parameters, canonical memory within its depths, a legal
STATUS word (10_state.md R26: BUSY = 1 implies DONE = 0, OK = 1 implies ERR = 0), a running command that holds CMD and
the registers' values (R51) and has changed no buffer yet, result registers within the buffers. The older buffers that a
read may still show (log 25) are canonical too. -/
def Obligations.StepKeepsSound : Prop := ∀ s t : State, s.Sound → step s = .next t → t.Sound

/-- From every state with canonical memory, sound or not, a step leaves canonical memory: buffers listed with strictly
rising indices, which is the model's representation of 10_state.md R40's arrays and R45's written elements (log 2). The same
of the older buffers that a read may still show (log 25). -/
def Obligations.StepKeepsMemoryCanonical : Prop :=
  ∀ s t : State, (∀ m ∈ s.mem :: s.older, m.wf = true) → step s = .next t → ∀ m ∈ t.mem :: t.older, m.wf = true

/-- 20_memory.md R66, R68 item 1, 10_state.md R51: while a command runs and until it ends, no step changes a buffer, an
operand, a geometry or length register, CMD or a result register: the command works on what stood at its CMD write. -/
def Obligations.RunningCommandSeesFrozenInputs : Prop :=
  ∀ s t : State, s.busy = true → step s = .next t → t.busy = true →
    t.mem = s.mem ∧ t.operands = s.operands ∧ t.cfg = s.cfg ∧ t.cmd = s.cmd ∧ t.carW = s.carW ∧ t.carH = s.carH ∧
      t.embW = s.embW ∧ t.embH = s.embH ∧ t.txtLen = s.txtLen ∧ t.reqPix = s.reqPix ∧ t.outLen = s.outLen ∧
      t.draws = s.draws ∧ t.undrawn = s.undrawn ∧ t.older = s.older

/-- 10_state.md R26, R27: WBUSY is cleared only by reset or by a write of a word with bit 9 = 1 to STATUS. -/
def Obligations.WbusyIsSticky : Prop :=
  ∀ s t : State, step s = .next t → s.wbusy = true → t.wbusy = false →
    ∃ x rest, s.inputs = x :: rest ∧
      (x = .reset ∨ ∃ v, (s.datum v).getLsbD 9 = true ∧
        (x = .txn (.write .reg 1 v) ∨
          ∃ a, x = .bus a ∧ a.data = some v ∧ spaceAt s.cfg a.addr = some .reg ∧ (a.addr - s.cfg.base .reg) / 4 = 1))

/-- 10_state.md R27: only the end of a command sets DONE, OK, SENT_FOUND or an error code. -/
def Obligations.OnlyTheSequencerSetsResults : Prop :=
  ∀ s t : State, step s = .next t → s.sequencerMoves = false →
    (t.done = true → s.done = true) ∧ (t.ok = true → s.ok = true) ∧ (t.sentFound = true → s.sentFound = true) ∧
      (t.err = s.err ∨ t.err = .none)

/-- 20_memory.md R74, 10_state.md R40: the block never writes an input space, a geometry or length register or CMD: a
step in which the sequencer moves leaves them, the parameters and WBUSY as they are. -/
def Obligations.BlockNeverWritesInputs : Prop :=
  ∀ s t : State, s.sequencerMoves = true → step s = .next t → s.sameInputs t

/-- 70_reset_and_hazards.md R203: a running command ends. Within `d + 1` steps the sequencer is IDLE, or the machine has
stopped with a fault or a refusal. `d` is a free value: this holds whatever it is. That it is finite is the model's form
of the fairness R202 assumes (log 5). A poll of `wait` while the command is not due answers the STATUS word and lowers
`d` (30_encoding.md R87, log 5); so a command that is ready, or an illegal word, ends after `d` polls and a step, with no
stop, and the next poll takes the host past the `wait`. -/
def Obligations.EveryCommandEnds : Prop :=
  (∀ (s : State) (w : Word) (l : Latched) (d : Nat), s.seq = .run w l d →
    ∃ k ≤ d + 1, ∀ t, Host.Core.run Sys2Proof.core k s = .next t → t.seq = .idle) ∧
  (∀ (s : State) (w : Word) (l : Latched) (d : Nat) (rest : List Input), s.seq = .run w l (d + 1) →
    s.inputs = .wait :: rest → step s = .next { s with seq := .run w l d, answer := s.statusWord }) ∧
  ∀ (s : State) (w : Word) (l : Latched) (d : Nat) (rest : List Input), s.seq = .run w l d →
    s.inputs = .wait :: rest → (∀ i, decode w = .ok i → s.ready i) →
    ∃ t u, Host.Core.run Sys2Proof.core (d + 1) s = .next t ∧ t.seq = .idle ∧ t.done = true ∧
      t.inputs = .wait :: rest ∧ Host.Core.run Sys2Proof.core (d + 2) s = .next u ∧
      u = { t with answer := t.statusWord, endUnseen := false, older := [], inputs := rest }

/-- 00_scope.md R9, 70_reset_and_hazards.md R193: no step, reset included, changes the implementation's parameters, which
the model holds in its state (log 1). -/
def Obligations.ParametersNeverChange : Prop := ∀ s t : State, step s = .next t → t.cfg = s.cfg

/-- 70_reset_and_hazards.md R204: when a host program has ended, and what is observed of it. It has ended where no input
is left, no command runs and no end of a command is unseen; an end is unseen from the sequencer's move until a read of
STATUS that returns BUSY = 0 (the model's record of it, log 24); an ended program's state stays; a program whose last
statement is `wait` ends, where the command is ready or its word illegal, and in any case if no fault stops it, with
nothing older to read (R196). The draws observed are those with
numbers below the next, but for those that a command cut by reset had not come to (log 4). -/
def Obligations.ProgramEndAndObservation : Prop :=
  (∀ s : State, s.programEnded = true ↔ s.inputs = [] ∧ s.seq = .idle ∧ s.endUnseen = false) ∧
  State.reset.endUnseen = false ∧
  (∀ s t : State, step s = .next t → t.endUnseen = (s.sequencerMoves || (s.endUnseen && !s.readsIdleStatus))) ∧
  (∀ s : State, s.programEnded = true → ∀ k, Host.Core.run Sys2Proof.core k s = .next s) ∧
  (∀ (s t : State) (w : Word) (l : Latched) (d : Nat), s.seq = .run w l d → s.inputs = [.wait] →
    Host.Core.run Sys2Proof.core (d + 2) s = .next t → t.programEnded = true ∧ t.older = []) ∧
  (∀ (s : State) (w : Word) (l : Latched) (d : Nat), s.seq = .run w l d → s.inputs = [.wait] →
    (∀ i, decode w = .ok i → s.ready i) →
    ∃ t, Host.Core.run Sys2Proof.core (d + 2) s = .next t ∧ t.programEnded = true ∧ t.older = []) ∧
  ∀ s : State, s.observation.registers.length = 16 ∧ (∀ i < 16, s.observation.registers[i]? = some (s.regWord i)) ∧
    s.observation.buffers = s.mem ∧
    (∃ ks : List Nat, ks.Pairwise (· < ·) ∧ (∀ k, k ∈ ks ↔ k < s.draws ∧ k ∉ s.undrawn) ∧
      s.observation.draws = ks.map Config.draw6) ∧
    (s.undrawn = [] → s.observation.draws.length = s.draws ∧
      ∀ k < s.draws, s.observation.draws[k]? = some (Config.draw6 k))
end

