-- ==== Sys2Proof/Laws/Buffer.lean ====
section
/-! SUPPORT. What buffer reads and writes do, and that every write keeps the canonical form and the depth. -/

namespace Sys2Proof.Machine

variable {α : Type}

/-! ## One element -/

/-- A read after a write: the written value there, every other element as before. -/
theorem Buffer.read_write (b : Buffer α) (i j : Nat) (v : α) :
    Buffer.read (Buffer.write b i v) j = if i = j then some v else Buffer.read b j := by
  induction b with
  | nil => simp [Buffer.write, Buffer.read]
  | cons x b ih =>
    obtain ⟨k, u⟩ := x
    by_cases h1 : i < k
    · simp [Buffer.write, h1, Buffer.read]
    · by_cases h2 : i = k
      · subst h2
        by_cases h : i = j <;> simp [Buffer.write, Buffer.read, h]
      · simp only [Buffer.write, h1, h2, if_false, Buffer.read, ih]
        by_cases hk : k = j
        · have : i ≠ j := fun h => h2 (h.trans hk.symm)
          simp [hk, this]
        · simp [hk]

@[simp] theorem Buffer.read_write_self (b : Buffer α) (i : Nat) (v : α) :
    Buffer.read (Buffer.write b i v) i = some v := by simp [Buffer.read_write]

theorem Buffer.read_write_ne (b : Buffer α) {i j : Nat} (v : α) (h : i ≠ j) :
    Buffer.read (Buffer.write b i v) j = Buffer.read b j := by simp [Buffer.read_write, h]

/-- A written element is either the new one or an old one. -/
theorem Buffer.mem_write {b : Buffer α} {i : Nat} {v : α} {x : Nat × α} (h : x ∈ Buffer.write b i v) :
    x = (i, v) ∨ x ∈ b := by
  induction b with
  | nil => simpa [Buffer.write] using h
  | cons y b ih =>
    obtain ⟨k, u⟩ := y
    unfold Buffer.write at h
    split_ifs at h
    · simpa using h
    · rcases List.mem_cons.1 h with h | h
      · exact .inl h
      · exact .inr (List.mem_cons_of_mem _ h)
    · rcases List.mem_cons.1 h with h | h
      · exact .inr (h ▸ List.mem_cons_self)
      · exact (ih h).imp_right (List.mem_cons_of_mem _)

/-- A write keeps the indices rising. -/
theorem Buffer.wf_write {b : Buffer α} (i : Nat) (v : α) (h : Buffer.wf b = true) :
    Buffer.wf (Buffer.write b i v) = true := by
  simp only [Buffer.wf, decide_eq_true_eq] at h ⊢
  induction b with
  | nil => simp [Buffer.write]
  | cons x b ih =>
    obtain ⟨k, u⟩ := x
    obtain ⟨hx, hb⟩ := List.pairwise_cons.1 h
    unfold Buffer.write
    split_ifs with h1 h2
    · refine List.pairwise_cons.2 ⟨fun y hy => ?_, h⟩
      rcases List.mem_cons.1 hy with rfl | hy
      · exact h1
      · exact lt_trans h1 (hx y hy)
    · subst h2
      exact List.pairwise_cons.2 ⟨hx, hb⟩
    · refine List.pairwise_cons.2 ⟨fun y hy => ?_, ih hb⟩
      rcases Buffer.mem_write hy with rfl | hy
      · show k < i
        omega
      · exact hx y hy

/-- A write below the depth keeps every index below it. -/
theorem Buffer.within_write {b : Buffer α} {i depth : Nat} (v : α) (hi : i < depth)
    (h : Buffer.within b depth = true) : Buffer.within (Buffer.write b i v) depth = true := by
  simp only [Buffer.within, List.all_eq_true, decide_eq_true_eq] at h ⊢
  intro x hx
  rcases Buffer.mem_write hx with rfl | hx
  · exact hi
  · exact h x hx

/-- An index at or above the depth of a buffer that keeps it is unwritten. -/
theorem Buffer.read_of_within {b : Buffer α} {i depth : Nat} (h : Buffer.within b depth = true) (hi : depth ≤ i) :
    Buffer.read b i = none := by
  induction b with
  | nil => rfl
  | cons x b ih =>
    simp only [Buffer.within, List.all_cons, Bool.and_eq_true, decide_eq_true_eq] at h
    have : x.1 ≠ i := by omega
    simp only [Buffer.read, this, if_false]
    exact ih h.2

/-! ## Runs of elements -/

theorem Buffer.loadFrom_eq_some {b : Buffer α} {start count : Nat} {vs : List α} :
    Buffer.loadFrom b start count = some vs ↔
      vs.length = count ∧ ∀ n < count, Buffer.read b (start + n) = vs[n]? := by
  induction count generalizing start vs with
  | zero => simp [Buffer.loadFrom, eq_comm]
  | succ count ih =>
    unfold Buffer.loadFrom
    cases hv : Buffer.read b start with
    | none =>
      simp only [reduceCtorEq, false_iff, not_and]
      intro hl h
      have := h 0 (by omega)
      rw [Nat.add_zero, hv, eq_comm, List.getElem?_eq_none_iff] at this
      omega
    | some v =>
      simp only [Option.map_eq_some_iff, ih]
      constructor
      · rintro ⟨ws, ⟨hl, h⟩, rfl⟩
        refine ⟨by simp [hl], fun n hn => ?_⟩
        cases n with
        | zero => simpa using hv
        | succ n =>
          have := h n (by omega)
          rw [show start + (n + 1) = start + 1 + n by omega, this]
          simp
      · rintro ⟨hl, h⟩
        cases vs with
        | nil => simp at hl
        | cons w ws =>
          have h0 := h 0 (by omega)
          rw [Nat.add_zero, hv] at h0
          refine ⟨ws, ⟨by simpa using hl, fun n hn => ?_⟩, by simp_all⟩
          have := h (n + 1) (by omega)
          rw [show start + (n + 1) = start + 1 + n by omega] at this
          simpa using this

/-- Loading the first K elements answers a list exactly where all are written, and then it is their values. -/
theorem Buffer.load_eq_some {b : Buffer α} {K : Nat} {vs : List α} :
    Buffer.load b K = some vs ↔ vs.length = K ∧ ∀ n < K, Buffer.read b n = vs[n]? := by
  simp [Buffer.load, Buffer.loadFrom_eq_some]

/-- Loading fails exactly where some element is unwritten. -/
theorem Buffer.loadFrom_eq_none {b : Buffer α} {start count : Nat} :
    Buffer.loadFrom b start count = none ↔ ∃ n < count, Buffer.read b (start + n) = none := by
  induction count generalizing start with
  | zero => simp [Buffer.loadFrom]
  | succ count ih =>
    unfold Buffer.loadFrom
    cases hv : Buffer.read b start with
    | none => simpa using ⟨0, by omega, by simpa using hv⟩
    | some v =>
      simp only [Option.map_eq_none_iff, ih]
      constructor
      · rintro ⟨n, hn, h⟩
        exact ⟨n + 1, by omega, by rw [← h]; congr 1; omega⟩
      · rintro ⟨n, hn, h⟩
        cases n with
        | zero => simp [hv] at h
        | succ n => exact ⟨n, by omega, by rw [← h]; congr 1; omega⟩

theorem Buffer.load_eq_none {b : Buffer α} {K : Nat} :
    Buffer.load b K = none ↔ ∃ n < K, Buffer.read b n = none := by
  simp [Buffer.load, Buffer.loadFrom_eq_none]

/-- The written elements load. -/
theorem Buffer.exists_load {b : Buffer α} {K : Nat} (h : ∀ n < K, (Buffer.read b n).isSome) :
    ∃ vs, Buffer.load b K = some vs := by
  cases hv : Buffer.load b K with
  | some vs => exact ⟨vs, rfl⟩
  | none =>
    obtain ⟨n, hn, hr⟩ := Buffer.load_eq_none.1 hv
    exact absurd (h n hn) (by simp [hr])

theorem Buffer.read_storeFrom (b : Buffer α) (start : Nat) (vs : List α) (j : Nat) :
    Buffer.read (Buffer.storeFrom b start vs) j =
      if start ≤ j ∧ j < start + vs.length then vs[j - start]? else Buffer.read b j := by
  induction vs generalizing b start with
  | nil =>
    have : ¬(start ≤ j ∧ j < start + ([] : List α).length) := by simp
    rw [if_neg this]
    rfl
  | cons v vs ih =>
    rw [Buffer.storeFrom, ih, Buffer.read_write]
    simp only [List.length_cons]
    by_cases h : start + 1 ≤ j ∧ j < start + 1 + vs.length
    · rw [if_pos h, if_pos (by omega), show j - start = (j - (start + 1)) + 1 by omega, List.getElem?_cons_succ]
    · rw [if_neg h]
      by_cases hj : start = j
      · subst hj; simp
      · rw [if_neg hj, if_neg (by omega)]

/-- A store of a list: its values from index 0 on, every later element as before. -/
theorem Buffer.read_store (b : Buffer α) (vs : List α) (j : Nat) :
    Buffer.read (Buffer.store b vs) j = if j < vs.length then vs[j]? else Buffer.read b j := by
  simp [Buffer.store, Buffer.read_storeFrom]

theorem Buffer.wf_storeFrom {b : Buffer α} (start : Nat) (vs : List α) (h : Buffer.wf b = true) :
    Buffer.wf (Buffer.storeFrom b start vs) = true := by
  induction vs generalizing b start with
  | nil => exact h
  | cons v vs ih => exact ih _ (Buffer.wf_write _ _ h)

theorem Buffer.wf_store {b : Buffer α} (vs : List α) (h : Buffer.wf b = true) : Buffer.wf (Buffer.store b vs) = true :=
  Buffer.wf_storeFrom 0 vs h

theorem Buffer.within_storeFrom {b : Buffer α} {start depth : Nat} (vs : List α) (hd : start + vs.length ≤ depth)
    (h : Buffer.within b depth = true) : Buffer.within (Buffer.storeFrom b start vs) depth = true := by
  induction vs generalizing b start with
  | nil => exact h
  | cons v vs ih =>
    simp only [List.length_cons] at hd
    exact ih (by omega) (Buffer.within_write v (by omega) h)

theorem Buffer.within_store {b : Buffer α} {depth : Nat} (vs : List α) (hd : vs.length ≤ depth)
    (h : Buffer.within b depth = true) : Buffer.within (Buffer.store b vs) depth = true :=
  Buffer.within_storeFrom vs (by omega) h

/-! ## The whole memory -/

/-- No element written is the canonical form. -/
theorem Memory.unwritten_wf : Memory.unwritten.wf = true := by decide

/-- A host's store keeps the canonical form. -/
theorem Memory.wf_storeWord {m : Memory} (S : Space) (i : Nat) (w : Word) (h : m.wf = true) :
    (m.storeWord S i w).wf = true := by
  simp only [Memory.wf, Bool.and_eq_true] at h ⊢
  obtain ⟨⟨⟨⟨⟨h1, h2⟩, h3⟩, h4⟩, h5⟩, h6⟩ := h
  cases S <;> simp [Memory.storeWord, Buffer.wf_write, *]

/-- A host's store below the depth keeps every index below it. -/
theorem Memory.within_storeWord {m : Memory} {p : Params} {S : Space} {i : Nat} (w : Word) (hi : i < p.depth S)
    (h : m.within p = true) : (m.storeWord S i w).within p = true := by
  simp only [Memory.within, Bool.and_eq_true] at h ⊢
  obtain ⟨⟨⟨⟨⟨h1, h2⟩, h3⟩, h4⟩, h5⟩, h6⟩ := h
  cases S <;> simp [Memory.storeWord, Buffer.within_write, *]

end Sys2Proof.Machine
end

