-- ==== Sys2Proof/Laws/Operands.lean ====
section
/-! SUPPORT. What the checks on a command's operands say, and the bounds of the operands. -/

namespace Sys2Proof.Machine

variable {s : State}

theorem carrierTooLarge_iff : s.carrierTooLarge = true ↔ s.cfg.carDepth < s.operands.pixels := by
  simp [State.carrierTooLarge]

theorem carrierFits_iff : s.carrierTooLarge = false ↔ s.operands.pixels ≤ s.cfg.carDepth := by
  simp [State.carrierTooLarge]

theorem textTooLong_iff : s.textTooLong = true ↔ s.cfg.txtInDepth < s.operands.chars := by
  simp [State.textTooLong]

theorem textFits_iff : s.textTooLong = false ↔ s.operands.chars ≤ s.cfg.txtInDepth := by
  simp [State.textTooLong]

theorem sizesDiffer_iff :
    s.sizesDiffer = true ↔ s.operands.embW ≠ s.operands.carW ∨ s.operands.embH ≠ s.operands.carH := by
  simp [State.sizesDiffer]

theorem sizesAgree_iff :
    s.sizesDiffer = false ↔ s.operands.embW = s.operands.carW ∧ s.operands.embH = s.operands.carH := by
  simp [State.sizesDiffer]

theorem pixelBudget_eq (n : Nat) : pixelBudget n = ceilDiv (8 * (n + 5 + n % 6)) 6 := rfl

theorem overCapacity_iff : s.overCapacity = true ↔ s.operands.pixels < pixelBudget s.operands.chars := by
  simp [State.overCapacity]

theorem withinCapacity_iff : s.overCapacity = false ↔ pixelBudget s.operands.chars ≤ s.operands.pixels := by
  simp [State.overCapacity]

/-- W · H of two 16-bit values fits in 32 bits (00_scope.md R10). -/
theorem pixels_lt (l : Latched) : l.pixels < 2 ^ 32 := by
  have hw := l.carW.isLt
  have hh := l.carH.isLt
  calc l.carW.toNat * l.carH.toNat ≤ 65535 * 65535 := Nat.mul_le_mul (by omega) (by omega)
    _ < 2 ^ 32 := by norm_num

/-- The operands of an IDLE block are its registers. -/
theorem operands_idle (h : s.seq = .idle) : s.operands = s.toLatch := by simp [State.operands, h]

/-- The operands of a running command are those latched. -/
theorem operands_run {w : Word} {l : Latched} {d : Nat} (h : s.seq = .run w l d) : s.operands = l := by
  simp [State.operands, h]

end Sys2Proof.Machine
end

