-- ==== Sys2Proof/Laws/State.lean ====
section
/-! SUPPORT. One lemma per field per named update of State, true by `rfl`: later proofs unfold no record update. -/

namespace Sys2Proof.Machine

variable (s : State)

/-! ## clearResult -/

@[simp] theorem clearResult_cfg : (s.clearResult).cfg = s.cfg := rfl
@[simp] theorem clearResult_cmd : (s.clearResult).cmd = s.cmd := rfl
@[simp] theorem clearResult_done : (s.clearResult).done = false := rfl
@[simp] theorem clearResult_ok : (s.clearResult).ok = false := rfl
@[simp] theorem clearResult_err : (s.clearResult).err = .none := rfl
@[simp] theorem clearResult_sentFound : (s.clearResult).sentFound = false := rfl
@[simp] theorem clearResult_wbusy : (s.clearResult).wbusy = s.wbusy := rfl
@[simp] theorem clearResult_carW : (s.clearResult).carW = s.carW := rfl
@[simp] theorem clearResult_carH : (s.clearResult).carH = s.carH := rfl
@[simp] theorem clearResult_embW : (s.clearResult).embW = s.embW := rfl
@[simp] theorem clearResult_embH : (s.clearResult).embH = s.embH := rfl
@[simp] theorem clearResult_txtLen : (s.clearResult).txtLen = s.txtLen := rfl
@[simp] theorem clearResult_reqPix : (s.clearResult).reqPix = s.reqPix := rfl
@[simp] theorem clearResult_outLen : (s.clearResult).outLen = s.outLen := rfl
@[simp] theorem clearResult_progress : (s.clearResult).progress = s.progress := rfl
@[simp] theorem clearResult_seq : (s.clearResult).seq = s.seq := rfl
@[simp] theorem clearResult_mem : (s.clearResult).mem = s.mem := rfl
@[simp] theorem clearResult_older : (s.clearResult).older = s.older := rfl
@[simp] theorem clearResult_draws : (s.clearResult).draws = s.draws := rfl
@[simp] theorem clearResult_undrawn : (s.clearResult).undrawn = s.undrawn := rfl
@[simp] theorem clearResult_fresh : (s.clearResult).fresh = s.fresh := rfl
@[simp] theorem clearResult_inputs : (s.clearResult).inputs = s.inputs := rfl
@[simp] theorem clearResult_answer : (s.clearResult).answer = s.answer := rfl
@[simp] theorem clearResult_endUnseen : (s.clearResult).endUnseen = s.endUnseen := rfl

/-! ## endFlags -/

@[simp] theorem endFlags_cfg (c : ErrCode) (f : Bool) : (s.endFlags c f).cfg = s.cfg := rfl
@[simp] theorem endFlags_cmd (c : ErrCode) (f : Bool) : (s.endFlags c f).cmd = s.cmd := rfl
@[simp] theorem endFlags_done (c : ErrCode) (f : Bool) : (s.endFlags c f).done = true := rfl
@[simp] theorem endFlags_ok (c : ErrCode) (f : Bool) : (s.endFlags c f).ok = (c == .none) := rfl
@[simp] theorem endFlags_err (c : ErrCode) (f : Bool) : (s.endFlags c f).err = c := rfl
@[simp] theorem endFlags_sentFound (c : ErrCode) (f : Bool) : (s.endFlags c f).sentFound = f := rfl
@[simp] theorem endFlags_wbusy (c : ErrCode) (f : Bool) : (s.endFlags c f).wbusy = s.wbusy := rfl
@[simp] theorem endFlags_carW (c : ErrCode) (f : Bool) : (s.endFlags c f).carW = s.carW := rfl
@[simp] theorem endFlags_carH (c : ErrCode) (f : Bool) : (s.endFlags c f).carH = s.carH := rfl
@[simp] theorem endFlags_embW (c : ErrCode) (f : Bool) : (s.endFlags c f).embW = s.embW := rfl
@[simp] theorem endFlags_embH (c : ErrCode) (f : Bool) : (s.endFlags c f).embH = s.embH := rfl
@[simp] theorem endFlags_txtLen (c : ErrCode) (f : Bool) : (s.endFlags c f).txtLen = s.txtLen := rfl
@[simp] theorem endFlags_reqPix (c : ErrCode) (f : Bool) : (s.endFlags c f).reqPix = s.reqPix := rfl
@[simp] theorem endFlags_outLen (c : ErrCode) (f : Bool) : (s.endFlags c f).outLen = s.outLen := rfl
@[simp] theorem endFlags_progress (c : ErrCode) (f : Bool) : (s.endFlags c f).progress = s.progress := rfl
@[simp] theorem endFlags_seq (c : ErrCode) (f : Bool) : (s.endFlags c f).seq = .idle := rfl
@[simp] theorem endFlags_mem (c : ErrCode) (f : Bool) : (s.endFlags c f).mem = s.mem := rfl
@[simp] theorem endFlags_older (c : ErrCode) (f : Bool) : (s.endFlags c f).older = s.older := rfl
@[simp] theorem endFlags_draws (c : ErrCode) (f : Bool) : (s.endFlags c f).draws = s.draws := rfl
@[simp] theorem endFlags_undrawn (c : ErrCode) (f : Bool) : (s.endFlags c f).undrawn = s.undrawn := rfl
@[simp] theorem endFlags_fresh (c : ErrCode) (f : Bool) : (s.endFlags c f).fresh = s.fresh := rfl
@[simp] theorem endFlags_inputs (c : ErrCode) (f : Bool) : (s.endFlags c f).inputs = s.inputs := rfl
@[simp] theorem endFlags_answer (c : ErrCode) (f : Bool) : (s.endFlags c f).answer = s.answer := rfl
@[simp] theorem endFlags_endUnseen (c : ErrCode) (f : Bool) : (s.endFlags c f).endUnseen = true := rfl

/-! ## setWbusy -/

@[simp] theorem setWbusy_cfg : (s.setWbusy).cfg = s.cfg := rfl
@[simp] theorem setWbusy_cmd : (s.setWbusy).cmd = s.cmd := rfl
@[simp] theorem setWbusy_done : (s.setWbusy).done = s.done := rfl
@[simp] theorem setWbusy_ok : (s.setWbusy).ok = s.ok := rfl
@[simp] theorem setWbusy_err : (s.setWbusy).err = s.err := rfl
@[simp] theorem setWbusy_sentFound : (s.setWbusy).sentFound = s.sentFound := rfl
@[simp] theorem setWbusy_wbusy : (s.setWbusy).wbusy = true := rfl
@[simp] theorem setWbusy_carW : (s.setWbusy).carW = s.carW := rfl
@[simp] theorem setWbusy_carH : (s.setWbusy).carH = s.carH := rfl
@[simp] theorem setWbusy_embW : (s.setWbusy).embW = s.embW := rfl
@[simp] theorem setWbusy_embH : (s.setWbusy).embH = s.embH := rfl
@[simp] theorem setWbusy_txtLen : (s.setWbusy).txtLen = s.txtLen := rfl
@[simp] theorem setWbusy_reqPix : (s.setWbusy).reqPix = s.reqPix := rfl
@[simp] theorem setWbusy_outLen : (s.setWbusy).outLen = s.outLen := rfl
@[simp] theorem setWbusy_progress : (s.setWbusy).progress = s.progress := rfl
@[simp] theorem setWbusy_seq : (s.setWbusy).seq = s.seq := rfl
@[simp] theorem setWbusy_mem : (s.setWbusy).mem = s.mem := rfl
@[simp] theorem setWbusy_older : (s.setWbusy).older = s.older := rfl
@[simp] theorem setWbusy_draws : (s.setWbusy).draws = s.draws := rfl
@[simp] theorem setWbusy_undrawn : (s.setWbusy).undrawn = s.undrawn := rfl
@[simp] theorem setWbusy_fresh : (s.setWbusy).fresh = s.fresh := rfl
@[simp] theorem setWbusy_inputs : (s.setWbusy).inputs = s.inputs := rfl
@[simp] theorem setWbusy_answer : (s.setWbusy).answer = s.answer := rfl
@[simp] theorem setWbusy_endUnseen : (s.setWbusy).endUnseen = s.endUnseen := rfl

/-! ## writeStatus -/

@[simp] theorem writeStatus_cfg (w : Word) : (s.writeStatus w).cfg = s.cfg := rfl
@[simp] theorem writeStatus_cmd (w : Word) : (s.writeStatus w).cmd = s.cmd := rfl
@[simp] theorem writeStatus_done (w : Word) : (s.writeStatus w).done = s.done := rfl
@[simp] theorem writeStatus_ok (w : Word) : (s.writeStatus w).ok = s.ok := rfl
@[simp] theorem writeStatus_err (w : Word) : (s.writeStatus w).err = s.err := rfl
@[simp] theorem writeStatus_sentFound (w : Word) : (s.writeStatus w).sentFound = s.sentFound := rfl
@[simp] theorem writeStatus_wbusy (w : Word) : (s.writeStatus w).wbusy = (s.wbusy && !w.getLsbD 9) := rfl
@[simp] theorem writeStatus_carW (w : Word) : (s.writeStatus w).carW = s.carW := rfl
@[simp] theorem writeStatus_carH (w : Word) : (s.writeStatus w).carH = s.carH := rfl
@[simp] theorem writeStatus_embW (w : Word) : (s.writeStatus w).embW = s.embW := rfl
@[simp] theorem writeStatus_embH (w : Word) : (s.writeStatus w).embH = s.embH := rfl
@[simp] theorem writeStatus_txtLen (w : Word) : (s.writeStatus w).txtLen = s.txtLen := rfl
@[simp] theorem writeStatus_reqPix (w : Word) : (s.writeStatus w).reqPix = s.reqPix := rfl
@[simp] theorem writeStatus_outLen (w : Word) : (s.writeStatus w).outLen = s.outLen := rfl
@[simp] theorem writeStatus_progress (w : Word) : (s.writeStatus w).progress = s.progress := rfl
@[simp] theorem writeStatus_seq (w : Word) : (s.writeStatus w).seq = s.seq := rfl
@[simp] theorem writeStatus_mem (w : Word) : (s.writeStatus w).mem = s.mem := rfl
@[simp] theorem writeStatus_older (w : Word) : (s.writeStatus w).older = s.older := rfl
@[simp] theorem writeStatus_draws (w : Word) : (s.writeStatus w).draws = s.draws := rfl
@[simp] theorem writeStatus_undrawn (w : Word) : (s.writeStatus w).undrawn = s.undrawn := rfl
@[simp] theorem writeStatus_fresh (w : Word) : (s.writeStatus w).fresh = s.fresh := rfl
@[simp] theorem writeStatus_inputs (w : Word) : (s.writeStatus w).inputs = s.inputs := rfl
@[simp] theorem writeStatus_answer (w : Word) : (s.writeStatus w).answer = s.answer := rfl
@[simp] theorem writeStatus_endUnseen (w : Word) : (s.writeStatus w).endUnseen = s.endUnseen := rfl

/-! ## enterRun -/

@[simp] theorem enterRun_cfg (w : Word) (d : Nat) : (s.enterRun w d).cfg = s.cfg := rfl
@[simp] theorem enterRun_cmd (w : Word) (d : Nat) : (s.enterRun w d).cmd = w := rfl
@[simp] theorem enterRun_done (w : Word) (d : Nat) : (s.enterRun w d).done = false := rfl
@[simp] theorem enterRun_ok (w : Word) (d : Nat) : (s.enterRun w d).ok = false := rfl
@[simp] theorem enterRun_err (w : Word) (d : Nat) : (s.enterRun w d).err = .none := rfl
@[simp] theorem enterRun_sentFound (w : Word) (d : Nat) : (s.enterRun w d).sentFound = false := rfl
@[simp] theorem enterRun_wbusy (w : Word) (d : Nat) : (s.enterRun w d).wbusy = s.wbusy := rfl
@[simp] theorem enterRun_carW (w : Word) (d : Nat) : (s.enterRun w d).carW = s.carW := rfl
@[simp] theorem enterRun_carH (w : Word) (d : Nat) : (s.enterRun w d).carH = s.carH := rfl
@[simp] theorem enterRun_embW (w : Word) (d : Nat) : (s.enterRun w d).embW = s.embW := rfl
@[simp] theorem enterRun_embH (w : Word) (d : Nat) : (s.enterRun w d).embH = s.embH := rfl
@[simp] theorem enterRun_txtLen (w : Word) (d : Nat) : (s.enterRun w d).txtLen = s.txtLen := rfl
@[simp] theorem enterRun_reqPix (w : Word) (d : Nat) : (s.enterRun w d).reqPix = s.reqPix := rfl
@[simp] theorem enterRun_outLen (w : Word) (d : Nat) : (s.enterRun w d).outLen = s.outLen := rfl
@[simp] theorem enterRun_progress (w : Word) (d : Nat) : (s.enterRun w d).progress = 0 := rfl
@[simp] theorem enterRun_seq (w : Word) (d : Nat) : (s.enterRun w d).seq = .run w s.toLatch d := rfl
@[simp] theorem enterRun_mem (w : Word) (d : Nat) : (s.enterRun w d).mem = s.mem := rfl
@[simp] theorem enterRun_older (w : Word) (d : Nat) : (s.enterRun w d).older = s.mem :: s.older := rfl
@[simp] theorem enterRun_draws (w : Word) (d : Nat) : (s.enterRun w d).draws = s.draws := rfl
@[simp] theorem enterRun_undrawn (w : Word) (d : Nat) : (s.enterRun w d).undrawn = s.undrawn := rfl
@[simp] theorem enterRun_fresh (w : Word) (d : Nat) : (s.enterRun w d).fresh = s.fresh := rfl
@[simp] theorem enterRun_inputs (w : Word) (d : Nat) : (s.enterRun w d).inputs = s.inputs := rfl
@[simp] theorem enterRun_answer (w : Word) (d : Nat) : (s.enterRun w d).answer = s.answer := rfl
@[simp] theorem enterRun_endUnseen (w : Word) (d : Nat) : (s.enterRun w d).endUnseen = s.endUnseen := rfl

/-! ## accept -/

@[simp] theorem accept_cfg (w : Word) : (s.accept w).cfg = s.cfg := rfl
@[simp] theorem accept_cmd (w : Word) : (s.accept w).cmd = w := rfl
@[simp] theorem accept_done (w : Word) : (s.accept w).done = false := rfl
@[simp] theorem accept_ok (w : Word) : (s.accept w).ok = false := rfl
@[simp] theorem accept_err (w : Word) : (s.accept w).err = .none := rfl
@[simp] theorem accept_sentFound (w : Word) : (s.accept w).sentFound = false := rfl
@[simp] theorem accept_wbusy (w : Word) : (s.accept w).wbusy = s.wbusy := rfl
@[simp] theorem accept_carW (w : Word) : (s.accept w).carW = s.carW := rfl
@[simp] theorem accept_carH (w : Word) : (s.accept w).carH = s.carH := rfl
@[simp] theorem accept_embW (w : Word) : (s.accept w).embW = s.embW := rfl
@[simp] theorem accept_embH (w : Word) : (s.accept w).embH = s.embH := rfl
@[simp] theorem accept_txtLen (w : Word) : (s.accept w).txtLen = s.txtLen := rfl
@[simp] theorem accept_reqPix (w : Word) : (s.accept w).reqPix = s.reqPix := rfl
@[simp] theorem accept_outLen (w : Word) : (s.accept w).outLen = s.outLen := rfl
@[simp] theorem accept_progress (w : Word) : (s.accept w).progress = 0 := rfl
@[simp] theorem accept_seq (w : Word) : (s.accept w).seq = .run w s.toLatch (commandDue w s.fresh) := rfl
@[simp] theorem accept_mem (w : Word) : (s.accept w).mem = s.mem := rfl
@[simp] theorem accept_older (w : Word) : (s.accept w).older = s.mem :: s.older := rfl
@[simp] theorem accept_draws (w : Word) : (s.accept w).draws = s.draws := rfl
@[simp] theorem accept_undrawn (w : Word) : (s.accept w).undrawn = s.undrawn := rfl
@[simp] theorem accept_fresh (w : Word) : (s.accept w).fresh = s.fresh + 1 := rfl
@[simp] theorem accept_inputs (w : Word) : (s.accept w).inputs = s.inputs := rfl
@[simp] theorem accept_answer (w : Word) : (s.accept w).answer = s.answer := rfl
@[simp] theorem accept_endUnseen (w : Word) : (s.accept w).endUnseen = s.endUnseen := rfl

/-! ## endOk -/

@[simp] theorem endOk_cfg (K : Nat) (f : Bool) : (s.endOk K f).cfg = s.cfg := rfl
@[simp] theorem endOk_cmd (K : Nat) (f : Bool) : (s.endOk K f).cmd = s.cmd := rfl
@[simp] theorem endOk_done (K : Nat) (f : Bool) : (s.endOk K f).done = true := rfl
@[simp] theorem endOk_ok (K : Nat) (f : Bool) : (s.endOk K f).ok = true := rfl
@[simp] theorem endOk_err (K : Nat) (f : Bool) : (s.endOk K f).err = .none := rfl
@[simp] theorem endOk_sentFound (K : Nat) (f : Bool) : (s.endOk K f).sentFound = f := rfl
@[simp] theorem endOk_wbusy (K : Nat) (f : Bool) : (s.endOk K f).wbusy = s.wbusy := rfl
@[simp] theorem endOk_carW (K : Nat) (f : Bool) : (s.endOk K f).carW = s.carW := rfl
@[simp] theorem endOk_carH (K : Nat) (f : Bool) : (s.endOk K f).carH = s.carH := rfl
@[simp] theorem endOk_embW (K : Nat) (f : Bool) : (s.endOk K f).embW = s.embW := rfl
@[simp] theorem endOk_embH (K : Nat) (f : Bool) : (s.endOk K f).embH = s.embH := rfl
@[simp] theorem endOk_txtLen (K : Nat) (f : Bool) : (s.endOk K f).txtLen = s.txtLen := rfl
@[simp] theorem endOk_reqPix (K : Nat) (f : Bool) : (s.endOk K f).reqPix = s.reqPix := rfl
@[simp] theorem endOk_outLen (K : Nat) (f : Bool) : (s.endOk K f).outLen = s.outLen := rfl
@[simp] theorem endOk_progress (K : Nat) (f : Bool) : (s.endOk K f).progress = BitVec.ofNat 32 K := rfl
@[simp] theorem endOk_seq (K : Nat) (f : Bool) : (s.endOk K f).seq = .idle := rfl
@[simp] theorem endOk_mem (K : Nat) (f : Bool) : (s.endOk K f).mem = s.mem := rfl
@[simp] theorem endOk_older (K : Nat) (f : Bool) : (s.endOk K f).older = s.older := rfl
@[simp] theorem endOk_draws (K : Nat) (f : Bool) : (s.endOk K f).draws = s.draws := rfl
@[simp] theorem endOk_undrawn (K : Nat) (f : Bool) : (s.endOk K f).undrawn = s.undrawn := rfl
@[simp] theorem endOk_fresh (K : Nat) (f : Bool) : (s.endOk K f).fresh = s.fresh := rfl
@[simp] theorem endOk_inputs (K : Nat) (f : Bool) : (s.endOk K f).inputs = s.inputs := rfl
@[simp] theorem endOk_answer (K : Nat) (f : Bool) : (s.endOk K f).answer = s.answer := rfl
@[simp] theorem endOk_endUnseen (K : Nat) (f : Bool) : (s.endOk K f).endUnseen = true := rfl

/-! ## raiseError -/

@[simp] theorem raiseError_cfg (c : ErrCode) : (s.raiseError c).cfg = s.cfg := rfl
@[simp] theorem raiseError_cmd (c : ErrCode) : (s.raiseError c).cmd = s.cmd := rfl
@[simp] theorem raiseError_done (c : ErrCode) : (s.raiseError c).done = true := rfl
@[simp] theorem raiseError_ok (c : ErrCode) : (s.raiseError c).ok = (c == .none) := rfl
@[simp] theorem raiseError_err (c : ErrCode) : (s.raiseError c).err = c := rfl
@[simp] theorem raiseError_sentFound (c : ErrCode) : (s.raiseError c).sentFound = false := rfl
@[simp] theorem raiseError_wbusy (c : ErrCode) : (s.raiseError c).wbusy = s.wbusy := rfl
@[simp] theorem raiseError_carW (c : ErrCode) : (s.raiseError c).carW = s.carW := rfl
@[simp] theorem raiseError_carH (c : ErrCode) : (s.raiseError c).carH = s.carH := rfl
@[simp] theorem raiseError_embW (c : ErrCode) : (s.raiseError c).embW = s.embW := rfl
@[simp] theorem raiseError_embH (c : ErrCode) : (s.raiseError c).embH = s.embH := rfl
@[simp] theorem raiseError_txtLen (c : ErrCode) : (s.raiseError c).txtLen = s.txtLen := rfl
@[simp] theorem raiseError_reqPix (c : ErrCode) : (s.raiseError c).reqPix = s.reqPix := rfl
@[simp] theorem raiseError_outLen (c : ErrCode) : (s.raiseError c).outLen = s.outLen := rfl
@[simp] theorem raiseError_progress (c : ErrCode) : (s.raiseError c).progress = 0 := rfl
@[simp] theorem raiseError_seq (c : ErrCode) : (s.raiseError c).seq = .idle := rfl
@[simp] theorem raiseError_mem (c : ErrCode) : (s.raiseError c).mem = s.mem := rfl
@[simp] theorem raiseError_older (c : ErrCode) : (s.raiseError c).older = s.older := rfl
@[simp] theorem raiseError_draws (c : ErrCode) : (s.raiseError c).draws = s.draws := rfl
@[simp] theorem raiseError_undrawn (c : ErrCode) : (s.raiseError c).undrawn = s.undrawn := rfl
@[simp] theorem raiseError_fresh (c : ErrCode) : (s.raiseError c).fresh = s.fresh := rfl
@[simp] theorem raiseError_inputs (c : ErrCode) : (s.raiseError c).inputs = s.inputs := rfl
@[simp] theorem raiseError_answer (c : ErrCode) : (s.raiseError c).answer = s.answer := rfl
@[simp] theorem raiseError_endUnseen (c : ErrCode) : (s.raiseError c).endUnseen = true := rfl

/-! ## assertReset -/

@[simp] theorem assertReset_cfg : (s.assertReset).cfg = s.cfg := rfl
@[simp] theorem assertReset_cmd : (s.assertReset).cmd = 0 := rfl
@[simp] theorem assertReset_done : (s.assertReset).done = false := rfl
@[simp] theorem assertReset_ok : (s.assertReset).ok = false := rfl
@[simp] theorem assertReset_err : (s.assertReset).err = .none := rfl
@[simp] theorem assertReset_sentFound : (s.assertReset).sentFound = false := rfl
@[simp] theorem assertReset_wbusy : (s.assertReset).wbusy = false := rfl
@[simp] theorem assertReset_carW : (s.assertReset).carW = 0 := rfl
@[simp] theorem assertReset_carH : (s.assertReset).carH = 0 := rfl
@[simp] theorem assertReset_embW : (s.assertReset).embW = 0 := rfl
@[simp] theorem assertReset_embH : (s.assertReset).embH = 0 := rfl
@[simp] theorem assertReset_txtLen : (s.assertReset).txtLen = 0 := rfl
@[simp] theorem assertReset_reqPix : (s.assertReset).reqPix = 0 := rfl
@[simp] theorem assertReset_outLen : (s.assertReset).outLen = 0 := rfl
@[simp] theorem assertReset_progress : (s.assertReset).progress = 0 := rfl
@[simp] theorem assertReset_seq : (s.assertReset).seq = .idle := rfl
@[simp] theorem assertReset_mem : (s.assertReset).mem = Memory.unwritten := rfl
@[simp] theorem assertReset_older : (s.assertReset).older = [] := rfl
@[simp] theorem assertReset_draws : (s.assertReset).draws = s.draws + s.drawsInHand := rfl
@[simp] theorem assertReset_undrawn : (s.assertReset).undrawn = s.undrawn ++ s.drawsCutOff := rfl
@[simp] theorem assertReset_fresh : (s.assertReset).fresh = s.fresh := rfl
@[simp] theorem assertReset_inputs : (s.assertReset).inputs = s.inputs := rfl
@[simp] theorem assertReset_answer : (s.assertReset).answer = s.answer := rfl
@[simp] theorem assertReset_endUnseen : (s.assertReset).endUnseen = s.endUnseen := rfl

/-! ## withBudget -/

@[simp] theorem withBudget_cfg : (s.withBudget).cfg = s.cfg := rfl
@[simp] theorem withBudget_cmd : (s.withBudget).cmd = s.cmd := rfl
@[simp] theorem withBudget_done : (s.withBudget).done = s.done := rfl
@[simp] theorem withBudget_ok : (s.withBudget).ok = s.ok := rfl
@[simp] theorem withBudget_err : (s.withBudget).err = s.err := rfl
@[simp] theorem withBudget_sentFound : (s.withBudget).sentFound = s.sentFound := rfl
@[simp] theorem withBudget_wbusy : (s.withBudget).wbusy = s.wbusy := rfl
@[simp] theorem withBudget_carW : (s.withBudget).carW = s.carW := rfl
@[simp] theorem withBudget_carH : (s.withBudget).carH = s.carH := rfl
@[simp] theorem withBudget_embW : (s.withBudget).embW = s.embW := rfl
@[simp] theorem withBudget_embH : (s.withBudget).embH = s.embH := rfl
@[simp] theorem withBudget_txtLen : (s.withBudget).txtLen = s.txtLen := rfl
@[simp] theorem withBudget_reqPix : (s.withBudget).reqPix = BitVec.ofNat 32 (pixelBudget s.operands.chars) := rfl
@[simp] theorem withBudget_outLen : (s.withBudget).outLen = s.outLen := rfl
@[simp] theorem withBudget_progress : (s.withBudget).progress = s.progress := rfl
@[simp] theorem withBudget_seq : (s.withBudget).seq = s.seq := rfl
@[simp] theorem withBudget_mem : (s.withBudget).mem = s.mem := rfl
@[simp] theorem withBudget_older : (s.withBudget).older = s.older := rfl
@[simp] theorem withBudget_draws : (s.withBudget).draws = s.draws := rfl
@[simp] theorem withBudget_undrawn : (s.withBudget).undrawn = s.undrawn := rfl
@[simp] theorem withBudget_fresh : (s.withBudget).fresh = s.fresh := rfl
@[simp] theorem withBudget_inputs : (s.withBudget).inputs = s.inputs := rfl
@[simp] theorem withBudget_answer : (s.withBudget).answer = s.answer := rfl
@[simp] theorem withBudget_endUnseen : (s.withBudget).endUnseen = s.endUnseen := rfl

/-! ## answered -/

@[simp] theorem answered_cfg (w : Word) : (s.answered w).cfg = s.cfg := rfl
@[simp] theorem answered_cmd (w : Word) : (s.answered w).cmd = s.cmd := rfl
@[simp] theorem answered_done (w : Word) : (s.answered w).done = s.done := rfl
@[simp] theorem answered_ok (w : Word) : (s.answered w).ok = s.ok := rfl
@[simp] theorem answered_err (w : Word) : (s.answered w).err = s.err := rfl
@[simp] theorem answered_sentFound (w : Word) : (s.answered w).sentFound = s.sentFound := rfl
@[simp] theorem answered_wbusy (w : Word) : (s.answered w).wbusy = s.wbusy := rfl
@[simp] theorem answered_carW (w : Word) : (s.answered w).carW = s.carW := rfl
@[simp] theorem answered_carH (w : Word) : (s.answered w).carH = s.carH := rfl
@[simp] theorem answered_embW (w : Word) : (s.answered w).embW = s.embW := rfl
@[simp] theorem answered_embH (w : Word) : (s.answered w).embH = s.embH := rfl
@[simp] theorem answered_txtLen (w : Word) : (s.answered w).txtLen = s.txtLen := rfl
@[simp] theorem answered_reqPix (w : Word) : (s.answered w).reqPix = s.reqPix := rfl
@[simp] theorem answered_outLen (w : Word) : (s.answered w).outLen = s.outLen := rfl
@[simp] theorem answered_progress (w : Word) : (s.answered w).progress = s.progress := rfl
@[simp] theorem answered_seq (w : Word) : (s.answered w).seq = s.seq := rfl
@[simp] theorem answered_mem (w : Word) : (s.answered w).mem = s.mem := rfl
@[simp] theorem answered_older (w : Word) : (s.answered w).older = s.older := rfl
@[simp] theorem answered_draws (w : Word) : (s.answered w).draws = s.draws := rfl
@[simp] theorem answered_undrawn (w : Word) : (s.answered w).undrawn = s.undrawn := rfl
@[simp] theorem answered_fresh (w : Word) : (s.answered w).fresh = s.fresh := rfl
@[simp] theorem answered_inputs (w : Word) : (s.answered w).inputs = s.inputs := rfl
@[simp] theorem answered_answer (w : Word) : (s.answered w).answer = w := rfl
@[simp] theorem answered_endUnseen (w : Word) : (s.answered w).endUnseen = s.endUnseen := rfl

/-! ## noticed -/

@[simp] theorem noticed_cfg (S : Space) (i : Nat) : (s.noticed S i).cfg = s.cfg := rfl
@[simp] theorem noticed_cmd (S : Space) (i : Nat) : (s.noticed S i).cmd = s.cmd := rfl
@[simp] theorem noticed_done (S : Space) (i : Nat) : (s.noticed S i).done = s.done := rfl
@[simp] theorem noticed_ok (S : Space) (i : Nat) : (s.noticed S i).ok = s.ok := rfl
@[simp] theorem noticed_err (S : Space) (i : Nat) : (s.noticed S i).err = s.err := rfl
@[simp] theorem noticed_sentFound (S : Space) (i : Nat) : (s.noticed S i).sentFound = s.sentFound := rfl
@[simp] theorem noticed_wbusy (S : Space) (i : Nat) : (s.noticed S i).wbusy = s.wbusy := rfl
@[simp] theorem noticed_carW (S : Space) (i : Nat) : (s.noticed S i).carW = s.carW := rfl
@[simp] theorem noticed_carH (S : Space) (i : Nat) : (s.noticed S i).carH = s.carH := rfl
@[simp] theorem noticed_embW (S : Space) (i : Nat) : (s.noticed S i).embW = s.embW := rfl
@[simp] theorem noticed_embH (S : Space) (i : Nat) : (s.noticed S i).embH = s.embH := rfl
@[simp] theorem noticed_txtLen (S : Space) (i : Nat) : (s.noticed S i).txtLen = s.txtLen := rfl
@[simp] theorem noticed_reqPix (S : Space) (i : Nat) : (s.noticed S i).reqPix = s.reqPix := rfl
@[simp] theorem noticed_outLen (S : Space) (i : Nat) : (s.noticed S i).outLen = s.outLen := rfl
@[simp] theorem noticed_progress (S : Space) (i : Nat) : (s.noticed S i).progress = s.progress := rfl
@[simp] theorem noticed_seq (S : Space) (i : Nat) : (s.noticed S i).seq = s.seq := rfl
@[simp] theorem noticed_mem (S : Space) (i : Nat) : (s.noticed S i).mem = s.mem := rfl
@[simp] theorem noticed_older (S : Space) (i : Nat) : (s.noticed S i).older = (if decide (S = .reg) && i == 1 && !s.busy then [] else s.older) := rfl
@[simp] theorem noticed_draws (S : Space) (i : Nat) : (s.noticed S i).draws = s.draws := rfl
@[simp] theorem noticed_undrawn (S : Space) (i : Nat) : (s.noticed S i).undrawn = s.undrawn := rfl
@[simp] theorem noticed_fresh (S : Space) (i : Nat) : (s.noticed S i).fresh = s.fresh := rfl
@[simp] theorem noticed_inputs (S : Space) (i : Nat) : (s.noticed S i).inputs = s.inputs := rfl
@[simp] theorem noticed_answer (S : Space) (i : Nat) : (s.noticed S i).answer = s.answer := rfl
@[simp] theorem noticed_endUnseen (S : Space) (i : Nat) : (s.noticed S i).endUnseen = (s.endUnseen && !(decide (S = .reg) && i == 1 && !s.busy)) := rfl

/-! ## storeWord -/

@[simp] theorem storeWord_cfg (S : Space) (i : Nat) (w : Word) : (s.storeWord S i w).cfg = s.cfg := rfl
@[simp] theorem storeWord_cmd (S : Space) (i : Nat) (w : Word) : (s.storeWord S i w).cmd = s.cmd := rfl
@[simp] theorem storeWord_done (S : Space) (i : Nat) (w : Word) : (s.storeWord S i w).done = s.done := rfl
@[simp] theorem storeWord_ok (S : Space) (i : Nat) (w : Word) : (s.storeWord S i w).ok = s.ok := rfl
@[simp] theorem storeWord_err (S : Space) (i : Nat) (w : Word) : (s.storeWord S i w).err = s.err := rfl
@[simp] theorem storeWord_sentFound (S : Space) (i : Nat) (w : Word) : (s.storeWord S i w).sentFound = s.sentFound := rfl
@[simp] theorem storeWord_wbusy (S : Space) (i : Nat) (w : Word) : (s.storeWord S i w).wbusy = s.wbusy := rfl
@[simp] theorem storeWord_carW (S : Space) (i : Nat) (w : Word) : (s.storeWord S i w).carW = s.carW := rfl
@[simp] theorem storeWord_carH (S : Space) (i : Nat) (w : Word) : (s.storeWord S i w).carH = s.carH := rfl
@[simp] theorem storeWord_embW (S : Space) (i : Nat) (w : Word) : (s.storeWord S i w).embW = s.embW := rfl
@[simp] theorem storeWord_embH (S : Space) (i : Nat) (w : Word) : (s.storeWord S i w).embH = s.embH := rfl
@[simp] theorem storeWord_txtLen (S : Space) (i : Nat) (w : Word) : (s.storeWord S i w).txtLen = s.txtLen := rfl
@[simp] theorem storeWord_reqPix (S : Space) (i : Nat) (w : Word) : (s.storeWord S i w).reqPix = s.reqPix := rfl
@[simp] theorem storeWord_outLen (S : Space) (i : Nat) (w : Word) : (s.storeWord S i w).outLen = s.outLen := rfl
@[simp] theorem storeWord_progress (S : Space) (i : Nat) (w : Word) : (s.storeWord S i w).progress = s.progress := rfl
@[simp] theorem storeWord_seq (S : Space) (i : Nat) (w : Word) : (s.storeWord S i w).seq = s.seq := rfl
@[simp] theorem storeWord_mem (S : Space) (i : Nat) (w : Word) : (s.storeWord S i w).mem = s.mem.storeWord S i w := rfl
@[simp] theorem storeWord_older (S : Space) (i : Nat) (w : Word) : (s.storeWord S i w).older = (s.older.map fun m => m.storeWord S i w) := rfl
@[simp] theorem storeWord_draws (S : Space) (i : Nat) (w : Word) : (s.storeWord S i w).draws = s.draws := rfl
@[simp] theorem storeWord_undrawn (S : Space) (i : Nat) (w : Word) : (s.storeWord S i w).undrawn = s.undrawn := rfl
@[simp] theorem storeWord_fresh (S : Space) (i : Nat) (w : Word) : (s.storeWord S i w).fresh = s.fresh := rfl
@[simp] theorem storeWord_inputs (S : Space) (i : Nat) (w : Word) : (s.storeWord S i w).inputs = s.inputs := rfl
@[simp] theorem storeWord_answer (S : Space) (i : Nat) (w : Word) : (s.storeWord S i w).answer = s.answer := rfl
@[simp] theorem storeWord_endUnseen (S : Space) (i : Nat) (w : Word) : (s.storeWord S i w).endUnseen = s.endUnseen := rfl

/-! ## choose -/

@[simp] theorem choose_cfg : (s.choose).cfg = s.cfg := rfl
@[simp] theorem choose_cmd : (s.choose).cmd = s.cmd := rfl
@[simp] theorem choose_done : (s.choose).done = s.done := rfl
@[simp] theorem choose_ok : (s.choose).ok = s.ok := rfl
@[simp] theorem choose_err : (s.choose).err = s.err := rfl
@[simp] theorem choose_sentFound : (s.choose).sentFound = s.sentFound := rfl
@[simp] theorem choose_wbusy : (s.choose).wbusy = s.wbusy := rfl
@[simp] theorem choose_carW : (s.choose).carW = s.carW := rfl
@[simp] theorem choose_carH : (s.choose).carH = s.carH := rfl
@[simp] theorem choose_embW : (s.choose).embW = s.embW := rfl
@[simp] theorem choose_embH : (s.choose).embH = s.embH := rfl
@[simp] theorem choose_txtLen : (s.choose).txtLen = s.txtLen := rfl
@[simp] theorem choose_reqPix : (s.choose).reqPix = s.reqPix := rfl
@[simp] theorem choose_outLen : (s.choose).outLen = s.outLen := rfl
@[simp] theorem choose_progress : (s.choose).progress = s.progress := rfl
@[simp] theorem choose_seq : (s.choose).seq = s.seq := rfl
@[simp] theorem choose_mem : (s.choose).mem = s.mem := rfl
@[simp] theorem choose_older : (s.choose).older = s.older := rfl
@[simp] theorem choose_draws : (s.choose).draws = s.draws := rfl
@[simp] theorem choose_undrawn : (s.choose).undrawn = s.undrawn := rfl
@[simp] theorem choose_fresh : (s.choose).fresh = s.fresh + 1 := rfl
@[simp] theorem choose_inputs : (s.choose).inputs = s.inputs := rfl
@[simp] theorem choose_answer : (s.choose).answer = s.answer := rfl
@[simp] theorem choose_endUnseen : (s.choose).endUnseen = s.endUnseen := rfl

/-! ## inputPasses -/

@[simp] theorem inputPasses_cfg : s.inputPasses.cfg = s.cfg := by unfold State.inputPasses; split <;> rfl
@[simp] theorem inputPasses_cmd : s.inputPasses.cmd = s.cmd := by unfold State.inputPasses; split <;> rfl
@[simp] theorem inputPasses_done : s.inputPasses.done = s.done := by unfold State.inputPasses; split <;> rfl
@[simp] theorem inputPasses_ok : s.inputPasses.ok = s.ok := by unfold State.inputPasses; split <;> rfl
@[simp] theorem inputPasses_err : s.inputPasses.err = s.err := by unfold State.inputPasses; split <;> rfl
@[simp] theorem inputPasses_sentFound : s.inputPasses.sentFound = s.sentFound := by unfold State.inputPasses; split <;> rfl
@[simp] theorem inputPasses_wbusy : s.inputPasses.wbusy = s.wbusy := by unfold State.inputPasses; split <;> rfl
@[simp] theorem inputPasses_carW : s.inputPasses.carW = s.carW := by unfold State.inputPasses; split <;> rfl
@[simp] theorem inputPasses_carH : s.inputPasses.carH = s.carH := by unfold State.inputPasses; split <;> rfl
@[simp] theorem inputPasses_embW : s.inputPasses.embW = s.embW := by unfold State.inputPasses; split <;> rfl
@[simp] theorem inputPasses_embH : s.inputPasses.embH = s.embH := by unfold State.inputPasses; split <;> rfl
@[simp] theorem inputPasses_txtLen : s.inputPasses.txtLen = s.txtLen := by unfold State.inputPasses; split <;> rfl
@[simp] theorem inputPasses_reqPix : s.inputPasses.reqPix = s.reqPix := by unfold State.inputPasses; split <;> rfl
@[simp] theorem inputPasses_outLen : s.inputPasses.outLen = s.outLen := by unfold State.inputPasses; split <;> rfl
@[simp] theorem inputPasses_progress : s.inputPasses.progress = s.progress := by unfold State.inputPasses; split <;> rfl
@[simp] theorem inputPasses_mem : s.inputPasses.mem = s.mem := by unfold State.inputPasses; split <;> rfl
@[simp] theorem inputPasses_older : s.inputPasses.older = s.older := by unfold State.inputPasses; split <;> rfl
@[simp] theorem inputPasses_draws : s.inputPasses.draws = s.draws := by unfold State.inputPasses; split <;> rfl
@[simp] theorem inputPasses_undrawn : s.inputPasses.undrawn = s.undrawn := by unfold State.inputPasses; split <;> rfl
@[simp] theorem inputPasses_fresh : s.inputPasses.fresh = s.fresh := by unfold State.inputPasses; split <;> rfl
@[simp] theorem inputPasses_inputs : s.inputPasses.inputs = s.inputs := by unfold State.inputPasses; split <;> rfl
@[simp] theorem inputPasses_answer : s.inputPasses.answer = s.answer := by unfold State.inputPasses; split <;> rfl
@[simp] theorem inputPasses_endUnseen : s.inputPasses.endUnseen = s.endUnseen := by unfold State.inputPasses; split <;> rfl

end Sys2Proof.Machine
end

