-- ==== Sys2Proof/Laws/Exec.lean ====
section
/-! SUPPORT. Everything a command can do, said once per command: the cases of its next state, and when it faults. -/

namespace Sys2Proof.Machine

variable {s t : State}

/-- EXTRACT answers a next state in two ways. -/
theorem execExtract_next :
    execExtract s = .next t ↔
      (s.carrierTooLarge = true ∧ t = s.raiseError .range) ∨
      (s.carrierTooLarge = false ∧ ∃ px, Buffer.load s.mem.car s.operands.pixels = some px ∧
        t = { s with mem := { s.mem with oidx := Buffer.store s.mem.oidx (px.map ext332) } }.endOk
          s.operands.pixels false) := by
  unfold execExtract
  cases s.carrierTooLarge <;> cases Buffer.load s.mem.car s.operands.pixels <;> simp [eq_comm]

/-- WEAVE answers a next state in three ways. -/
theorem execWeave_next :
    execWeave s = .next t ↔
      (s.carrierTooLarge = true ∧ t = s.raiseError .range) ∨
      (s.carrierTooLarge = false ∧ s.sizesDiffer = true ∧ t = s.raiseError .sizeMismatch) ∨
      (s.carrierTooLarge = false ∧ s.sizesDiffer = false ∧
        ∃ px vs, Buffer.load s.mem.car s.operands.pixels = some px ∧
          Buffer.load s.mem.emb s.operands.pixels = some vs ∧
          t = { s with mem := { s.mem with orgb := Buffer.store s.mem.orgb (List.zipWith ins332 px vs) } }.endOk
            s.operands.pixels false) := by
  unfold execWeave
  cases s.carrierTooLarge <;> cases s.sizesDiffer <;> cases Buffer.load s.mem.car s.operands.pixels <;>
    cases Buffer.load s.mem.emb s.operands.pixels <;> simp [eq_comm]

/-- EXTRACT_TXT answers a next state in two ways. -/
theorem execExtractTxt_next :
    execExtractTxt s = .next t ↔
      (s.carrierTooLarge = true ∧ t = s.raiseError .range) ∨
      (s.carrierTooLarge = false ∧ ∃ px, Buffer.load s.mem.car s.operands.pixels = some px ∧
        t = { s with
              mem := { s.mem with tout := Buffer.store s.mem.tout (textBeforeSentinel (decodedText s.cfg px)) },
              outLen := outLenWord (textBeforeSentinel (decodedText s.cfg px)).length }.endOk
          s.operands.pixels (findSentinel (decodedText s.cfg px)).isSome) := by
  unfold execExtractTxt
  cases s.carrierTooLarge <;> cases Buffer.load s.mem.car s.operands.pixels <;> simp [eq_comm]

/-- WEAVE_TXT answers a next state in three ways. -/
theorem execWeaveTxt_next :
    execWeaveTxt s = .next t ↔
      ((s.carrierTooLarge || s.textTooLong) = true ∧ t = s.raiseError .range) ∨
      ((s.carrierTooLarge || s.textTooLong) = false ∧ s.overCapacity = true ∧
        t = s.withBudget.raiseError .capacityExceeded) ∨
      ((s.carrierTooLarge || s.textTooLong) = false ∧ s.overCapacity = false ∧
        ∃ text px, Buffer.load s.mem.tin s.operands.chars = some text ∧
          Buffer.load s.mem.car s.operands.pixels = some px ∧
          t = { s.withBudget with
                mem := { s.mem with orgb := Buffer.store s.mem.orgb (s.wovenText text px) },
                draws := s.draws + s.operands.pixels }.endOk s.operands.pixels false) := by
  unfold execWeaveTxt
  cases (s.carrierTooLarge || s.textTooLong) <;> cases s.overCapacity <;>
    cases Buffer.load s.mem.tin s.operands.chars <;> cases Buffer.load s.mem.car s.operands.pixels <;> simp [eq_comm]

/-- No command is ever refused. -/
theorem exec_not_refused (i : Instr) (s : State) (r : Refusal) : exec i s ≠ .refused r := by
  cases i <;> simp only [exec, execExtract, execWeave, execExtractTxt, execWeaveTxt] <;> (repeat' split) <;>
    simp

/-- A command answers a next state exactly where it is ready: an error its checks give, or every element written. -/
theorem exec_next_iff_ready {i : Instr} : (∃ t, exec i s = .next t) ↔ s.ready i := by
  have load : ∀ {α : Type} (b : Buffer α) (K : Nat),
      (∃ vs, Buffer.load b K = some vs) ↔ ∀ n < K, (Buffer.read b n).isSome = true := by
    intro α b K
    refine ⟨fun ⟨vs, h⟩ n hn => ?_, Buffer.exists_load⟩
    obtain ⟨hl, hr⟩ := Buffer.load_eq_some.1 h
    rw [hr n hn, List.getElem?_eq_getElem (by omega)]
    rfl
  cases i
  · simp only [exec, execExtract_next, State.ready, State.carLoaded, ← load, ← carrierTooLarge_iff]
    cases s.carrierTooLarge <;> simp
  · simp only [exec, execWeave_next, State.ready, State.carLoaded, State.embLoaded, ← load, ← carrierTooLarge_iff,
      ← or_assoc (a := _ ≠ _), ← sizesDiffer_iff]
    cases s.carrierTooLarge <;> cases s.sizesDiffer <;> simp
  · simp only [exec, execExtractTxt_next, State.ready, State.carLoaded, ← load, ← carrierTooLarge_iff]
    cases s.carrierTooLarge <;> simp
  · simp only [exec, execWeaveTxt_next, State.ready, State.carLoaded, State.tinLoaded, ← load, ← carrierTooLarge_iff,
      ← textTooLong_iff, ← pixelBudget_eq, ← overCapacity_iff]
    cases s.carrierTooLarge <;> cases s.textTooLong <;> cases s.overCapacity <;> simp [and_comm]

/-- Every end of a command, success or error: the sequencer is IDLE, DONE is set, and everything but the
result fields, the output buffers, REQ_PIX, OUT_LEN and the draw number is as it was; the host has not seen the end, and
what a read may still show stays. -/
theorem exec_next_frame {i : Instr} (h : exec i s = .next t) :
    t.seq = .idle ∧ t.done = true ∧ t.ok = (t.err == .none) ∧ s.sameInputs t ∧ t.inputs = s.inputs ∧
      t.answer = s.answer ∧ t.fresh = s.fresh ∧ t.endUnseen = true ∧ t.older = s.older ∧ t.undrawn = s.undrawn := by
  unfold State.sameInputs
  cases i <;> simp only [exec] at h
  · rcases execExtract_next.1 h with ⟨-, rfl⟩ | ⟨-, px, -, rfl⟩ <;> simp
  · rcases execWeave_next.1 h with ⟨-, rfl⟩ | ⟨-, -, rfl⟩ | ⟨-, -, px, vs, -, -, rfl⟩ <;> simp
  · rcases execExtractTxt_next.1 h with ⟨-, rfl⟩ | ⟨-, px, -, rfl⟩ <;> simp
  · rcases execWeaveTxt_next.1 h with ⟨-, rfl⟩ | ⟨-, -, rfl⟩ | ⟨-, -, text, px, -, -, rfl⟩ <;> simp

end Sys2Proof.Machine
end

