-- ==== Sys2Proof/Laws/HostPort.lean ====
section
/-! SUPPORT. Everything a host transaction and a step can do, said once per operation. -/

namespace Sys2Proof.Machine

variable {s t : State}

/-- BUSY is the sequencer's state. -/
@[simp] theorem busy_idle (h : s.seq = .idle) : s.busy = false := by simp [State.busy, h]

/-- BUSY is the sequencer's state. -/
@[simp] theorem busy_run {w : Word} {l : Latched} {d : Nat} (h : s.seq = .run w l d) : s.busy = true := by
  simp [State.busy, h]

/-- While BUSY a read shows the host no end of a command. -/
theorem noticed_busy (S : Space) (i : Nat) (h : s.busy = true) : s.noticed S i = s := by simp [State.noticed, h]

/-- A read of anything but STATUS shows the host no end of a command. -/
theorem noticed_other {S : Space} {i : Nat} (h : (S, i) ≠ (.reg, 1)) : s.noticed S i = s := by
  have : (decide (S = .reg) && i == 1) = false := by simpa using h
  simp [State.noticed, this]

/-- A read of an element changes the host's answer alone. -/
theorem answerElement_next {v : Option Word} (h : answerElement s v = .next t) : ∃ w, v = some w ∧ t = s.answered w := by
  cases v with
  | none => cases h
  | some w => exact ⟨w, rfl, by simpa [answerElement] using h.symm⟩

/-- The buffers a read picks are those that stand or older ones. -/
theorem pickedMemory_mem (s : State) : s.pickedMemory ∈ s.mem :: s.older := by
  have h : Config.recency s.fresh % (s.older.length + 1) < (s.mem :: s.older).length :=
    Nat.mod_lt _ (Nat.succ_pos _)
  rw [State.pickedMemory, List.getD_eq_getElem _ _ h]
  exact List.getElem_mem h

/-- What `s.mem` holds is what the element holds. -/
@[simp] theorem elementIn_self (S : Space) (i : Nat) : s.elementIn s.mem S i = s.element S i := rfl

/-- A read of an unsettled output answers what it holds or has held, or faults where the one it takes is unwritten. -/
theorem unsettledRead_eq (s : State) (S : Space) (i : Nat) :
    ∃ m ∈ s.mem :: s.older, unsettledRead s S i = answerElement s.choose (s.elementIn m S i) :=
  ⟨_, pickedMemory_mem s, rfl⟩

/-- A read of an unsettled output changes the host's answer and uses up one free choice. -/
theorem unsettledRead_next {S : Space} {i : Nat} (h : unsettledRead s S i = .next t) :
    ∃ w, t = s.choose.answered w ∧ ∃ m ∈ s.mem :: s.older, s.elementIn m S i = some w := by
  obtain ⟨m, hm, e⟩ := unsettledRead_eq s S i
  obtain ⟨w, hw, ht⟩ := answerElement_next (e ▸ h)
  exact ⟨w, ht, m, hm, hw⟩

/-- A raced read changes the host's answer and uses up one free choice. -/
theorem racedRead_next {S : Space} {i : Nat} (h : racedRead s S i = .next t) : ∃ w, t = s.choose.answered w := by
  unfold racedRead at h
  split at h
  · split at h
    · obtain ⟨w, -, h⟩ := answerElement_next h; exact ⟨w, h⟩
    · cases h
    · cases h
  · obtain ⟨w, h, -⟩ := unsettledRead_next h; exact ⟨w, h⟩

/-- A read changes the host's answer, uses up at most one free choice, and may show the host the end of a command:
nothing else. -/
theorem hostRead_next {S : Space} {i : Nat} (h : hostRead s S i = .next t) :
    ∃ w k, t = { s.noticed S i with answer := w, fresh := k } := by
  unfold hostRead at h
  split at h
  · rename_i hd
    have : s.noticed S i = s := noticed_other (by rintro ⟨⟩; simp [Params.depth] at hd)
    rw [this]
    exact ⟨0, s.fresh, (Host.Outcome.next.inj h).symm⟩
  · split at h
    · rename_i hb
      rw [noticed_busy S i hb]
      unfold busyRead at h
      split at h
      · exact ⟨busyRegWord s i, s.fresh + 1, (Host.Outcome.next.inj h).symm⟩
      all_goals first
        | (obtain ⟨w, rfl⟩ := racedRead_next h; exact ⟨w, s.fresh + 1, rfl⟩)
        | (obtain ⟨w, -, rfl⟩ := answerElement_next h; exact ⟨w, s.fresh, rfl⟩)
    split at h
    · obtain ⟨w, -, rfl⟩ := answerElement_next h
      exact ⟨w, s.fresh, rfl⟩
    · unfold unseenRead at h
      split at h
      · split at h
        · rename_i hi
          rw [noticed_other (by rcases hi with rfl | rfl <;> simp)]
          exact ⟨_, s.fresh + 1, (Host.Outcome.next.inj h).symm⟩
        · exact ⟨_, s.fresh, (Host.Outcome.next.inj h).symm⟩
      all_goals rw [noticed_other (by simp)]
      all_goals first
        | (obtain ⟨w, rfl, -⟩ := unsettledRead_next h; exact ⟨w, s.fresh + 1, rfl⟩)
        | (obtain ⟨w, -, rfl⟩ := answerElement_next h; exact ⟨w, s.fresh, rfl⟩)

/-- A read keeps what reads may still show, or, of an IDLE block, drops it all. -/
theorem noticed_older_cases (s : State) (S : Space) (i : Nat) :
    (s.noticed S i).older = s.older ∨ (s.busy = false ∧ (s.noticed S i).older = []) := by
  rw [noticed_older]
  split
  · rename_i h; simp only [Bool.and_eq_true, Bool.not_eq_true'] at h; exact .inr ⟨h.2, rfl⟩
  · exact .inl rfl

/-- No draw is cut off but the running command's. -/
theorem mem_drawsCutOff {k : Nat} (h : k ∈ s.drawsCutOff) : s.draws ≤ k ∧ k < s.draws + s.drawsInHand := by
  have := (List.mem_filter.1 h).1
  rwa [List.mem_range'_1] at this

/-- A WEAVE_TXT that passes its checks has its K draws in hand. -/
theorem drawsInHand_weaveTxt {w : Word} {l : Latched} {d : Nat} (h : s.seq = .run w l d)
    (hd : decode w = .ok .weaveTxt) :
    s.drawsInHand = if s.carrierTooLarge || s.textTooLong || s.overCapacity then 0 else l.pixels := by
  simp [State.drawsInHand, h, hd, operands_run h]

/-- No other word has a draw in hand. -/
theorem drawsInHand_other {w : Word} {l : Latched} {d : Nat} (h : s.seq = .run w l d)
    (hd : decode w ≠ .ok .weaveTxt) : s.drawsInHand = 0 := by
  simp only [State.drawsInHand, h]

/-- An IDLE block has no draw in hand. -/
theorem drawsInHand_idle (h : s.seq = .idle) : s.drawsInHand = 0 := by simp [State.drawsInHand, h]

/-- With no draw in hand, none is cut off. -/
theorem drawsCutOff_nil (h : s.drawsInHand = 0) : s.drawsCutOff = [] := by simp [State.drawsCutOff, h]

/-- A write while BUSY changes WBUSY and uses up at most one free choice, and nothing else. -/
theorem busyWrite_frame (s : State) (S : Space) (i : Nat) (w : Word) :
    ∃ b k, busyWrite s S i w = { s with wbusy := b, fresh := k } := by
  unfold busyWrite strayWrite
  split
  · exact ⟨_, s.fresh, rfl⟩
  · split
    · split
      · exact ⟨true, _, rfl⟩
      · exact ⟨s.wbusy, _, rfl⟩
    · exact ⟨true, s.fresh, rfl⟩

/-- A move of the sequencer runs the command its word decodes to. -/
theorem commandStep_ok {w : Word} {l : Latched} {d : Nat} {i : Instr} (h : s.seq = .run w l d)
    (hd : decode w = .ok i) : commandStep s = exec i s := by
  simp [commandStep, h, hd]

/-- A move of the sequencer ends an illegal word. -/
theorem commandStep_illegal {w : Word} {l : Latched} {d : Nat} {e : DecodeError} (h : s.seq = .run w l d)
    (hd : decode w = .error e) : commandStep s = .next s.endIllegal := by
  simp [commandStep, h, hd]

/-- Who moves: the sequencer exactly when a command runs that is due or alone, and no reset comes next. -/
theorem sequencerMoves_iff :
    s.sequencerMoves = true ↔
      ∃ w l d, s.seq = .run w l d ∧ (d = 0 ∨ s.inputs = []) ∧ s.resetNext = false := by
  unfold State.sequencerMoves
  cases s.seq <;> simp [List.isEmpty_iff]

end Sys2Proof.Machine
end

