-- ==== Sys2Proof/Laws/PerInstr.lean ====
section
/-! SUPPORT. What holds of every instruction as syntax: its word is well formed, decodes back to it, and reads the
same through the opcode table's numbering of bits. -/

namespace Sys2Proof.Laws.EncodeRoundTrip

/-- The command word of `i` is a legal one (30_encoding.md R83), the decoder reads `i` back from it (R85), and so
does the table's numbering of its bits. -/
def Statement (i : Instr) : Prop :=
  i.wellFormed = true ∧ commandWordWellFormed (encode i) = true ∧ decode (encode i) = .ok i ∧
    decodeTableWord 32 (encode i).toNat = some i

theorem extract : Statement .extract := ⟨rfl, by decide, rfl, rfl⟩
theorem weave : Statement .weave := ⟨rfl, by decide, rfl, rfl⟩
theorem extractTxt : Statement .extractTxt := ⟨rfl, by decide, rfl, rfl⟩
theorem weaveTxt : Statement .weaveTxt := ⟨rfl, by decide, rfl, rfl⟩

end Sys2Proof.Laws.EncodeRoundTrip
end

