-- ==== Sys2Proof/Laws/Step.lean ====
section
/-! SUPPORT. Everything a step can do, said once: the sequencer's end of a command, or one input of the host. -/

namespace Sys2Proof.Machine

variable {s t : State}

theorem busy_inputPasses (s : State) : s.inputPasses.busy = s.busy := by
  cases h : s.seq <;> simp [State.inputPasses, State.busy, h]

theorem operands_inputPasses (s : State) : s.inputPasses.operands = s.operands := by
  cases h : s.seq <;> simp [State.inputPasses, State.operands, h]

/-- A host write is lost while BUSY, and the idle write otherwise. -/
theorem hostWrite_cases (s : State) (S : Space) (i : Nat) (w : Word) :
    (s.busy = true ∧ ∃ b k, hostWrite s S i w = { s with wbusy := b, fresh := k }) ∨
    (s.busy = false ∧ hostWrite s S i w = idleWrite s S i w) := by
  cases hb : s.busy
  · exact .inr ⟨rfl, by simp [hostWrite, hb]⟩
  · obtain ⟨b, k, h⟩ := busyWrite_frame s S i w
    exact .inl ⟨rfl, b, k, by simp [hostWrite, hb, h]⟩

/-- An idle write does nothing, stores one existing buffer element, accepts a command, clears WBUSY, or writes the
geometry and length registers. -/
theorem idleWrite_cases (s : State) (S : Space) (i : Nat) (w : Word) :
    idleWrite s S i w = s ∨
    (S ≠ .reg ∧ i < s.cfg.depth S ∧ idleWrite s S i w = s.storeWord S i w) ∨
    (S = .reg ∧ i = 0 ∧ idleWrite s S i w = s.accept w) ∨
    (S = .reg ∧ i = 1 ∧ idleWrite s S i w = s.writeStatus w) ∨
    ∃ a b c d n, idleWrite s S i w = { s with carW := a, carH := b, embW := c, embH := d, txtLen := n } := by
  unfold idleWrite
  split
  · exact .inl rfl
  · rename_i hlt
    split
    · rename_i hS
      unfold writeReg
      split
      · exact .inr (.inr (.inl ⟨hS, rfl, rfl⟩))
      · exact .inr (.inr (.inr (.inl ⟨hS, rfl, rfl⟩)))
      all_goals exact .inr (.inr (.inr (.inr ⟨_, _, _, _, _, rfl⟩)))
    · rename_i hS
      exact .inr (.inl ⟨hS, by omega, rfl⟩)

/-- A transaction is a host write, or a read that changes only what the host has seen and the count of free choices. -/
theorem transact_next {x : Txn} (h : transact s x = .next t) :
    (∃ S i d, x = .write S i d ∧ t = hostWrite s S i (s.datum d)) ∨
    ∃ S i w k, x = .read S i ∧ t = { s.noticed S i with answer := w, fresh := k } := by
  cases x with
  | write S i d => exact .inl ⟨S, i, d, rfl, by simpa [transact] using h.symm⟩
  | read S i =>
    obtain ⟨w, k, h⟩ := hostRead_next h
    exact .inr ⟨S, i, w, k, rfl, h⟩

/-- A bus access that answers is the transaction on the element at its address. -/
theorem busInput_next {a : BusAccess} (h : busInput s a = .next t) :
    ∃ S, spaceAt s.cfg a.addr = some S ∧ transact s (a.toTxn S ((a.addr - s.cfg.base S) / 4)) = .next t := by
  unfold busInput at h
  split at h; · cases h
  split at h; · cases h
  split at h
  · exact ⟨_, by assumption, h⟩
  · cases h

/-- The input `x` writes word `v` to element `i` of `S`, by space and index or by byte address. -/
def Input.Writes (x : Input) (p : Params) (S : Space) (i : Nat) (v : Datum) : Prop :=
  x = .txn (.write S i v) ∨
    ∃ a, x = .bus a ∧ a.data = some v ∧ spaceAt p a.addr = some S ∧ i = (a.addr - p.base S) / 4

/-- The host's turn does nothing, resets, writes one element, or changes only the inputs, what the host has seen and the
count of free choices. -/
theorem hostMove_next (h : hostMove s = .next t) :
    (s.inputs = [] ∧ t = s) ∨
    (∃ rest, s.inputs = .reset :: rest ∧ t = { s.assertReset with inputs := rest }) ∨
    (∃ x rest S i d, s.inputs = x :: rest ∧ x.Writes s.cfg S i d ∧
      t = hostWrite { s.inputPasses with inputs := rest } S i (s.datum d)) ∨
    (s.resetNext = false ∧ s.inputs ≠ [] ∧
      ∃ w k rest b o, (o = s.older ∨ (s.busy = false ∧ o = [])) ∧
        t = { s.inputPasses with answer := w, fresh := k, inputs := rest, endUnseen := b, older := o }) := by
  have hdat : ∀ (d : Datum) (rest : List Input), ({ s.inputPasses with inputs := rest } : State).datum d = s.datum d := by
    intro d rest
    cases d <;> simp [State.datum]
  have hold : ∀ (rest : List Input) (S : Space) (i : Nat),
      (({ s.inputPasses with inputs := rest } : State).noticed S i).older = s.older ∨
        (s.busy = false ∧ (({ s.inputPasses with inputs := rest } : State).noticed S i).older = []) := by
    intro rest S i
    have hb : ({ s.inputPasses with inputs := rest } : State).busy = s.busy := busy_inputPasses s
    exact (noticed_older_cases { s.inputPasses with inputs := rest } S i).imp (fun h => h.trans (inputPasses_older s))
      fun h => ⟨hb.symm.trans h.1, h.2⟩
  unfold hostMove at h
  split at h
  · exact .inl ⟨by assumption, by simpa using h.symm⟩
  · rename_i x rest hi
    rcases transact_next h with ⟨S, i, d, rfl, rfl⟩ | ⟨S, i, w, k, -, rfl⟩
    · exact .inr (.inr (.inl ⟨_, rest, S, i, d, hi, .inl rfl, by rw [hdat]⟩))
    · exact .inr (.inr (.inr ⟨by simp [State.resetNext, hi], by simp [hi], w, k, rest, _, _, hold rest S i, rfl⟩))
  · rename_i a rest hi
    obtain ⟨S, hS, h⟩ := busInput_next h
    rcases transact_next h with ⟨S', i, d, hx, rfl⟩ | ⟨S', i, w, k, -, rfl⟩
    · unfold BusAccess.toTxn at hx
      split at hx
      · rename_i d' hd
        simp only [Txn.write.injEq] at hx
        obtain ⟨rfl, rfl, rfl⟩ := hx
        exact .inr (.inr (.inl ⟨_, rest, _, _, _, hi, .inr ⟨a, rfl, hd, by simpa using hS, rfl⟩, by rw [hdat]; simp⟩))
      · cases hx
    · exact .inr (.inr (.inr ⟨by simp [State.resetNext, hi], by simp [hi], w, k, rest, _, _, hold rest _ _, rfl⟩))
  · rename_i rest hi
    refine .inr (.inr (.inr ⟨by simp [State.resetNext, hi], by simp [hi], ?_⟩))
    simp only [Host.Outcome.next.injEq] at h
    subst h
    unfold pollStatus
    split
    · exact ⟨s.inputPasses.statusWord, s.fresh, s.inputs, s.endUnseen, s.older, .inl rfl, by simp [State.answered]⟩
    · exact ⟨s.inputPasses.statusWord, s.fresh, rest, (s.inputPasses.noticed .reg 1).endUnseen, _, hold rest .reg 1, by
        simp [State.answered, State.noticed, State.busy]⟩
  · rename_i rest hi
    exact .inr (.inl ⟨rest, hi, by simpa using h.symm⟩)
  · cases h

/-- A step is the end of a command, by the sequencer, or the host's turn. -/
theorem step_next (h : step s = .next t) :
    (s.sequencerMoves = true ∧ ∃ w l d, s.seq = .run w l d ∧
      ((∃ i, decode w = .ok i ∧ exec i s = .next t) ∨ (∃ e, decode w = .error e ∧ t = s.endIllegal))) ∨
    (s.sequencerMoves = false ∧ hostMove s = .next t) := by
  unfold step nextMove at h
  cases hm : s.sequencerMoves with
  | false => exact .inr ⟨rfl, by simpa [hm] using h⟩
  | true =>
    obtain ⟨w, l, d, hs, -⟩ := sequencerMoves_iff.1 hm
    refine .inl ⟨rfl, w, l, d, hs, ?_⟩
    rw [hm, if_pos rfl] at h
    cases hd : decode w with
    | ok i => exact .inl ⟨i, rfl, by rwa [commandStep_ok hs hd] at h⟩
    | error e => exact .inr ⟨e, rfl, by rw [commandStep_illegal hs hd] at h; simpa using h.symm⟩

end Sys2Proof.Machine
end

