-- ==== Sys2Proof/Tests/Slice0.lean ====
section
/-! SUPPORT. The model's own tests: the well-formedness smoke test, decoding, at most two vectors of 95_test_vectors.md
per command, a few of the host port, and for every statement with hypotheses a state and operands that meet them. -/

namespace Sys2Proof.Machine.Tests

/-! ## Helpers -/

/-- The default parameters of 95_test_vectors.md, with bases that do not overlap. -/
def params : Params where
  carDepth := 16
  txtInDepth := 16
  txtOutDepth := 36
  invalidCodes := []
  tailMode := .shortValue
  bases := { reg := 0, car := 64, emb := 128, tin := 192, orgb := 256, oidx := 320, tout := 384 }

/-- The block after reset, with those parameters. -/
def blank : State := { State.reset with cfg := params }

/-- Elements from index 0 on. -/
def filled {α : Type} (vs : List α) : Buffer α := Buffer.store [] vs

/-- The block with a carrier of w × h pixels loaded. -/
def loaded (w h : Half) (px : List Pixel) : State :=
  { blank with carW := w, carH := h, mem := { Memory.unwritten with car := filled px } }

/-- `loaded` with an embedded raster of ew × eh. -/
def embedded (w h ew eh : Half) (px : List Pixel) (vs : List Byte) : State :=
  { loaded w h px with embW := ew, embH := eh, mem := { Memory.unwritten with car := filled px, emb := filled vs } }

/-- `loaded` with a text. -/
def texted (w h : Half) (px : List Pixel) (cs : List Word) : State :=
  { loaded w h px with txtLen := BitVec.ofNat 32 cs.length,
                       mem := { Memory.unwritten with car := filled px, tin := filled cs } }

/-- `s` with a command word accepted, which ends after `d` more inputs. -/
def started (s : State) (w : Word) (d : Nat) : State := s.enterRun w d

/-- `s` with the host's next inputs. -/
def told (s : State) (is : List Input) : State := { s with inputs := is }

/-- A next state, and what holds of it. -/
def nextHas (o : Host.Outcome State Fault Refusal) (p : State → Bool) : Bool :=
  match o with
  | .next t => p t
  | _ => false

/-- The black pixel. -/
def black : Pixel := ⟨0, 0, 0⟩

/-- K black pixels in a row. -/
def blacks (K : Nat) : State := loaded (BitVec.ofNat 16 K) 1 (List.replicate K black)

/-- The two-pixel image weave of program P1. -/
def weaveTwo : State := embedded 2 1 2 1 [⟨255, 255, 255⟩, black] [170, 0x3C]

/-- The empty text over seven black pixels (vector W-1). -/
def weaveEmpty : State := texted 7 1 (List.replicate 7 black) []

/-- The text "A" over eleven black pixels (vector W-5). -/
def weaveA : State := texted 11 1 (List.replicate 11 black) [0x41]

/-- A text with a code point above 0xFF and the sentinel after it, over exactly its budget of black pixels. -/
def weaveMarked : State := texted 15 1 (List.replicate 15 black) [0x20AC, 0x7B, 0x23, 0xDF, 0x23, 0x7D]

/-- The empty text over six black pixels (vector W-2). -/
def tooSmall : State := texted 6 1 (List.replicate 6 black) []

/-! ## Well-formedness: each check passes a good term and refuses an ill-formed one -/

theorem smoke_reserved_clear : reservedClear 0x00000002 = true ∧ reservedClear 0x80000002 = false := by decide
theorem smoke_op_legal : opLegal 0x00000004 = true ∧ opLegal 0x00000000 = false ∧ opLegal 0x00000005 = false := by decide
theorem smoke_command_word :
    commandWordWellFormed 0x00000001 = true ∧ commandWordWellFormed 0x00000011 = false ∧
      commandWordWellFormed 0x0000000F = false := by decide
theorem smoke_bus_access :
    busAccessWellFormed 8 4 = true ∧ busAccessWellFormed 9 4 = false ∧ busAccessWellFormed 8 2 = false ∧
      busAccessWellFormed 8 8 = false := by decide
theorem smoke_instructions : ∀ i ∈ [Instr.extract, .weave, .extractTxt, .weaveTxt], i.wellFormed = true := by decide
theorem smoke_parameters : params.wellFormed = true := by decide
theorem smoke_carrier_depth : ({ params with carDepth := 65535 * 65535 + 1 } : Params).wellFormed = false := by decide
theorem smoke_text_in_depth : ({ params with txtInDepth := 2 ^ 28 + 1 } : Params).wellFormed = false := by decide
theorem smoke_text_out_depth : ({ params with txtOutDepth := 35 } : Params).wellFormed = false := by decide
theorem smoke_base_aligned :
    ({ params with bases := { params.bases with tout := 386 } } : Params).wellFormed = false := by decide
theorem smoke_spaces_apart :
    ({ params with bases := { params.bases with car := 60 } } : Params).wellFormed = false := by decide

/-! ## Decoding: words written out from 30_encoding.md R83, vectors C-1 to C-7 -/

theorem test_decode_extract : decode 0b00000000000000000000000000000001 = .ok .extract := by decide
theorem test_decode_weave : decode 0b00000000000000000000000000000010 = .ok .weave := by decide
theorem test_decode_extractTxt : decode 0b00000000000000000000000000000011 = .ok .extractTxt := by decide
theorem test_decode_weaveTxt : decode 0b00000000000000000000000000000100 = .ok .weaveTxt := by decide
theorem test_decode_illegal :
    decode 0x00000000 = .error .noSuchOp ∧ decode 0x00000005 = .error .noSuchOp ∧
      decode 0x0000000F = .error .noSuchOp ∧ decode 0x00000011 = .error .reservedBits ∧
      decode 0x80000002 = .error .reservedBits := by decide
theorem test_decode_short : decodeBytes [0x01, 0x00, 0x00] = .error .truncated := by decide
theorem test_lanes : lanesOfWord 0x00FEFAFD = [0xFD, 0xFA, 0xFE, 0x00] := by decide

/-! ## The commands -/

/-- Vector I-2. -/
theorem test_extract : nextHas (exec .extract (loaded 2 1 [⟨253, 250, 254⟩, ⟨1, 7, 0⟩]))
    (fun t => t.mem.oidx == [(0, 170), (1, 60)] && t.statusWord == 6 && t.progress == 2) = true := by decide

/-- Vector I-4. -/
theorem test_extract_range : nextHas (exec .extract (loaded 5 4 []))
    (fun t => t.statusWord == 0x52 && t.mem.oidx == []) = true := by decide

/-- Vector I-5. -/
theorem test_weave : nextHas (exec .weave weaveTwo)
    (fun t => t.element .orgb 0 == some 0x00FEFAFD && t.element .orgb 1 == some 0x00000701) = true := by decide

/-- Vector I-6: the same number of pixels in another shape. -/
theorem test_weave_shape : nextHas (exec .weave (embedded 3 2 2 3 [] [])) (fun t => t.statusWord == 0x22) = true := by
  decide

/-- Vector X-4: a tail of six bits, kept as a short value. -/
theorem test_extractTxt_tail : nextHas (exec .extractTxt (loaded 5 1 (List.replicate 5 ⟨255, 255, 255⟩)))
    (fun t => t.mem.tout == [(0, 0xFF), (1, 0xFF), (2, 0xFF), (3, 0x3F)] && t.outLen == 4 && !t.sentFound) = true := by
  decide

/-- Vector X-5: the sentinel at index 0. -/
theorem test_extractTxt_sentinel :
    nextHas (exec .extractTxt
      (loaded 7 1 [⟨1, 3, 2⟩, ⟨3, 0, 2⟩, ⟨0, 3, 3⟩, ⟨1, 3, 3⟩, ⟨0, 2, 0⟩, ⟨3, 1, 3⟩, ⟨3, 1, 0⟩]))
      (fun t => t.outLen == 0 && t.statusWord == 0x106) = true := by decide

/-- Vector W-5: the woven raster of "A", were every draw 111111. -/
theorem test_weaveTxt_raster :
    wovenRaster (fun _ => 0b111111) (frameBits [0x41]) (pixelBudget 1) (List.replicate 11 black) =
      [⟨1, 0, 0⟩, ⟨1, 1, 3⟩, ⟨2, 3, 0⟩, ⟨2, 0, 3⟩, ⟨3, 1, 3⟩, ⟨3, 0, 2⟩, ⟨0, 3, 1⟩, ⟨3, 3, 1⟩, ⟨0, 3, 0⟩, ⟨0, 3, 3⟩,
        ⟨3, 3, 3⟩] := by decide

/-- Vector W-2: one pixel too few. -/
theorem test_weaveTxt_capacity : nextHas (exec .weaveTxt tooSmall)
    (fun t => t.statusWord == 0x32 && t.reqPix == 7 && t.mem.orgb == [] && t.draws == 0) = true := by decide

/-! ## The host port -/

/-- Vector C-8. -/
theorem test_busy_write : (hostWrite (started (blacks 1) 1 5) .reg 2 9).carW = 1 ∧
    (hostWrite (started (blacks 1) 1 5) .reg 2 9).wbusy = true := by decide

/-- Vector C-9. -/
theorem test_clear_wbusy : hostWrite { blank with wbusy := true, done := true } .reg 1 0x200 =
    { blank with done := true } := rfl

/-- Vector C-11. -/
theorem test_geometry_width : nextHas (hostRead (hostWrite blank .reg 2 0x00012345) .reg 2)
    (fun t => t.answer == 0x2345) = true := by decide

/-- Vector C-6: an illegal word ends at the next step. -/
theorem test_illegal_word : nextHas (step (hostWrite blank .reg 0 0x11))
    (fun t => t.statusWord == 0x42 && t.cmd == 0x11) = true := by decide

/-- A bus read by byte address: CAR_W stands at BASE_REG + 8. -/
theorem test_bus_read : nextHas (busInput (blacks 3) ⟨8, 4, none⟩) (fun t => t.answer == 3) = true := by decide

/-! ## Witnesses: a state and operands that meet every hypothesis of a statement together, each clause at a boundary -/

/-- ByteLanesDecodeAsTheirWord. -/
theorem witness_ByteLanes : Instr.weaveTxt.wellFormed = true := rfl

/-- BitSequencesReadBack: the first and the last place. -/
theorem witness_BitSequences : (0 < 8 ∧ (bits8 0x80)[0]? = some true) ∧ (7 < 8 ∧ (bits8 0x01)[7]? = some true) := by
  decide

/-- PartialInsertionKeepsTheRest: a sequence of six, of none, and the last pixel of a budget, of four bits. -/
theorem witness_PartialInsertion :
    ([true, false, true, false, true, false] : Bits).length ≤ 6 ∧ ([] : Bits).length ≤ 6 ∧
      6 < pixelBudget ([] : List Word).length ∧ (payloadBits (frameBits []) 6).length = 4 := by decide

/-- CharacterMapSubstitutes: where its clauses meet. -/
theorem witness_CharacterMap : (0xFF#32).toNat ≤ 0xFF ∧ 0xFF < (0x100#32).toNat := by decide

/-- SentinelHasNoBorder. -/
theorem witness_SentinelBorder :
    (0 < 1 ∧ 1 < 5) ∧ (0 < 4 ∧ 4 < 5) ∧ (0x3F : Byte) ∈ placeholder ∧ (List.replicate 6 true).length ≤ 6 := by decide

/-- TextConstantsAndFrame: a code that VALID_CODE keeps and one that it rejects. -/
theorem witness_TextConstants : (0x41 : Byte) ∉ ({ params with invalidCodes := [0] } : Params).invalidCodes ∧
    (0x00 : Byte) ∈ ({ params with invalidCodes := [0] } : Params).invalidCodes := by decide

/-- DetectorFindsFirstSentinel: a text that holds the sentinel, and one that does not. -/
theorem witness_Detector : findSentinel (0x41 :: sentinel) = some 1 ∧ findSentinel [0x41] = none := by decide

/-- RegrouperCutsTheStream: the last bit of the second pixel, of the order R, G, B and of each channel's two bits. -/
theorem witness_Stream :
    let px : List Pixel := [black, ⟨0, 0, 1⟩]
    px[1]? = some ⟨0, 0, 1⟩ ∧ 5 < 6 ∧ (stream px)[11]? = some true := by decide

/-- FrameLengthAndBudget: the first and the last bit of the frame's second byte, 'A' before it. -/
theorem witness_FrameBits :
    (frame [0x41, 0x80])[1]? = some 0x80 ∧ 0 < 8 ∧ 7 < 8 ∧ (frameBits [0x41, 0x80])[8]? = some true ∧
      (frameBits [0x41, 0x80])[15]? = some false := by decide

/-- RegrouperCutsTheStream: no bits left, and some. -/
theorem witness_Regrouper : (List.replicate 24 true).length % 8 = 0 ∧ (List.replicate 30 true).length % 8 ≠ 0 := by
  decide

/-- TailModeMattersOnlyWithoutSentinel: seven pixels whose text holds the sentinel (vector X-5). -/
theorem witness_TailMode :
    findSentinel (decodedText { params with tailMode := .shortValue }
      [⟨1, 3, 2⟩, ⟨3, 0, 2⟩, ⟨0, 3, 3⟩, ⟨1, 3, 3⟩, ⟨0, 2, 0⟩, ⟨3, 1, 3⟩, ⟨3, 1, 0⟩]) ≠ none := by decide

/-- ExtractedTextFitsTout: the full depth. -/
theorem witness_TextFits : params.ok = true ∧ (List.replicate 16 black).length ≤ params.carDepth := by decide

/-- WovenPixelBits: the last pixel inside the budget and the first beyond it. -/
theorem witness_WovenPixel : 6 < pixelBudget 0 ∧ pixelBudget 0 ≤ 7 := by decide

/-- ExtractCompletes: a carrier of the buffer's full depth, and an empty one. -/
theorem witness_ExtractCompletes :
    ((blacks 16).operands.pixels ≤ (blacks 16).cfg.carDepth ∧ (blacks 16).carLoaded) ∧
      ((blacks 0).operands.pixels ≤ (blacks 0).cfg.carDepth ∧ (blacks 0).carLoaded) := by
  unfold State.carLoaded; decide

/-- WeaveCompletes and ImageRoundTrip. -/
theorem witness_WeaveCompletes :
    weaveTwo.operands.pixels ≤ weaveTwo.cfg.carDepth ∧ weaveTwo.operands.embW = weaveTwo.operands.carW ∧
      weaveTwo.operands.embH = weaveTwo.operands.carH ∧ weaveTwo.carLoaded ∧ weaveTwo.embLoaded := by
  unfold State.carLoaded State.embLoaded; decide

/-- ImageRoundTrip: the state `u`, which holds the woven pixels in CAR. -/
theorem witness_ImageRoundTrip : ∃ t, exec .weave weaveTwo = .next t ∧
    ∃ u : State, u.cfg = weaveTwo.cfg ∧ u.operands.pixels = weaveTwo.operands.pixels ∧
      ∀ n < weaveTwo.operands.pixels, Buffer.read u.mem.car n = Buffer.read t.mem.orgb n :=
  ⟨_, rfl, { weaveTwo with mem := { weaveTwo.mem with car := filled [⟨253, 250, 254⟩, ⟨1, 7, 0⟩] } }, rfl, rfl,
    by decide⟩

/-- ExtractTxtCompletes: a carrier of the buffer's full depth. -/
theorem witness_ExtractTxtCompletes :
    (blacks 16).operands.pixels ≤ (blacks 16).cfg.carDepth ∧
      (List.replicate 16 black).length = (blacks 16).operands.pixels ∧
      ∀ n < (blacks 16).operands.pixels, Buffer.read (blacks 16).mem.car n = (List.replicate 16 black)[n]? := by
  decide

/-- The OUT_LEN clause of ExtractTxtCompletes. -/
theorem witness_ExtractTxtLength :
    (textBeforeSentinel (decodedText params (List.replicate 16 black))).length < 2 ^ 32 :=
  lt_of_le_of_lt (b := 36) (by decide) (by norm_num)

/-- WeaveTxtCompletes and TextRoundTrip: exactly the budget (vector W-1). -/
theorem witness_WeaveTxtCompletes :
    weaveEmpty.operands.pixels ≤ weaveEmpty.cfg.carDepth ∧ weaveEmpty.operands.chars ≤ weaveEmpty.cfg.txtInDepth ∧
      ceilDiv (8 * (weaveEmpty.operands.chars + 5 + weaveEmpty.operands.chars % 6)) 6 ≤ weaveEmpty.operands.pixels ∧
      ([] : List Word).length = weaveEmpty.operands.chars ∧
      (∀ i < weaveEmpty.operands.chars, Buffer.read weaveEmpty.mem.tin i = ([] : List Word)[i]?) ∧
      weaveEmpty.carLoaded := by unfold State.carLoaded; decide

/-- WeaveTxtCompletes and TextRoundTrip: one character and one pixel beyond the budget (vector W-5); no sentinel inside,
every code valid. -/
theorem witness_TextRoundTrip :
    weaveA.operands.pixels ≤ weaveA.cfg.carDepth ∧ weaveA.operands.chars ≤ weaveA.cfg.txtInDepth ∧
      ceilDiv (8 * (weaveA.operands.chars + 5 + weaveA.operands.chars % 6)) 6 ≤ weaveA.operands.pixels ∧
      ([0x41] : List Word).length = weaveA.operands.chars ∧
      (∀ i < weaveA.operands.chars, Buffer.read weaveA.mem.tin i = ([0x41] : List Word)[i]?) ∧ weaveA.carLoaded ∧
      (∀ c ∈ ([0x41] : List Word).map chr2byte ++ sentinel, validCode weaveA.cfg c = true) ∧
      ∀ c ∈ ([0x41] : List Word), c.toNat ≤ 0xFF :=
  ⟨by decide, by decide, by decide, rfl, by decide, by unfold State.carLoaded; decide, fun _ _ => rfl, by simp⟩

/-- TextRoundTrip: "A" holds no sentinel. -/
theorem witness_TextWithoutSentinel (j : Nat) : ((([0x41] : List Word).map chr2byte).drop j).take 5 ≠ sentinel := by
  rcases j with _ | j
  · decide
  · simp [sentinel]

/-- TextRoundTrip: the state `u`, which holds the woven pixels in CAR, whatever the draws are. -/
theorem witness_TextCopied : ∃ t, exec .weaveTxt weaveA = .next t ∧
    ∃ u : State, u.cfg = weaveA.cfg ∧ u.operands.pixels = weaveA.operands.pixels ∧
      ∀ n < weaveA.operands.pixels, Buffer.read u.mem.car n = Buffer.read t.mem.orgb n :=
  ⟨_, rfl, { weaveA with mem := { weaveA.mem with
      car := Buffer.store [] (weaveA.wovenText [0x41] (List.replicate 11 black)) } }, rfl, rfl, fun _ _ => rfl⟩

/-- TextRoundTrip: a text that holds the sentinel, from index 1, and a code point above 0xFF before it. -/
theorem witness_TextWithSentinel :
    let text : List Word := [0x20AC, 0x7B, 0x23, 0xDF, 0x23, 0x7D]
    weaveMarked.operands.pixels ≤ weaveMarked.cfg.carDepth ∧
      weaveMarked.operands.chars ≤ weaveMarked.cfg.txtInDepth ∧
      ceilDiv (8 * (weaveMarked.operands.chars + 5 + weaveMarked.operands.chars % 6)) 6 ≤ weaveMarked.operands.pixels ∧
      text.length = weaveMarked.operands.chars ∧
      (∀ i < weaveMarked.operands.chars, Buffer.read weaveMarked.mem.tin i = text[i]?) ∧ weaveMarked.carLoaded ∧
      (∀ c ∈ text.map chr2byte ++ sentinel, validCode weaveMarked.cfg c = true) ∧
      findSentinel (text.map chr2byte) = some 1 ∧ 0xFF < (0x20AC#32).toNat :=
  ⟨by decide, by decide, by decide, rfl, by decide, by unfold State.carLoaded; decide, fun _ _ => rfl, by decide,
    by decide⟩

/-- TextRoundTrip: the state `u` of that text. -/
theorem witness_MarkedCopied : ∃ t, exec .weaveTxt weaveMarked = .next t ∧
    ∃ u : State, u.cfg = weaveMarked.cfg ∧ u.operands.pixels = weaveMarked.operands.pixels ∧
      ∀ n < weaveMarked.operands.pixels, Buffer.read u.mem.car n = Buffer.read t.mem.orgb n :=
  ⟨_, rfl, { weaveMarked with mem := { weaveMarked.mem with
      car := Buffer.store [] (weaveMarked.wovenText [0x20AC, 0x7B, 0x23, 0xDF, 0x23, 0x7D] (List.replicate 15 black)) } },
    rfl, rfl, fun _ _ => rfl⟩

/-- RangeErrors: one pixel too many, and one character too many (vectors I-4, W-7). -/
theorem witness_RangeErrors :
    (loaded 17 1 []).cfg.carDepth < (loaded 17 1 []).operands.pixels ∧
      (texted 4 4 [] (List.replicate 17 0x41)).cfg.txtInDepth <
        (texted 4 4 [] (List.replicate 17 0x41)).operands.chars := by decide

/-- SizeMismatch: another width, and another height (vector I-9). -/
theorem witness_SizeMismatch :
    ((embedded 1 1 1 0 [] []).operands.pixels ≤ (embedded 1 1 1 0 [] []).cfg.carDepth ∧
      (embedded 1 1 1 0 [] []).operands.embH ≠ (embedded 1 1 1 0 [] []).operands.carH) ∧
    ((embedded 1 1 0 1 [] []).operands.pixels ≤ (embedded 1 1 0 1 [] []).cfg.carDepth ∧
      (embedded 1 1 0 1 [] []).operands.embW ≠ (embedded 1 1 0 1 [] []).operands.carW) := by decide

/-- CapacityBoundary. -/
theorem witness_CapacityBoundary : tooSmall.cfg.ok = true ∧
    ∃ t, exec .weaveTxt tooSmall = .next t ∧ t.err = .capacityExceeded := ⟨by decide, _, rfl, rfl⟩

/-- WhichCommandRaisesWhat, ImageCommandsFrame, TextCommandsFrame: each command has a next state, and one with an
error. -/
theorem witness_CommandsAnswer :
    (∃ t, exec .extract (blacks 2) = .next t ∧ t.ok = true) ∧ (∃ t, exec .weave weaveTwo = .next t ∧ t.ok = true) ∧
      (∃ t, exec .extractTxt (blacks 2) = .next t ∧ t.ok = true) ∧
      (∃ t, exec .weaveTxt weaveA = .next t ∧ t.ok = true) ∧
      (∃ t, exec .extract (loaded 17 1 []) = .next t ∧ t.ok = false) ∧
      (∃ t, exec .weaveTxt tooSmall = .next t ∧ t.ok = false) :=
  ⟨⟨_, rfl, rfl⟩, ⟨_, rfl, rfl⟩, ⟨_, rfl, rfl⟩, ⟨_, rfl, rfl⟩, ⟨_, rfl, rfl⟩, ⟨_, rfl, rfl⟩⟩

/-- ErrorsLeaveNoPartialOutput: a legal command and an illegal word. -/
theorem witness_ErrorsLeave :
    ((started tooSmall 4 0).busy = true ∧
      ∃ t, commandStep (started tooSmall 4 0) = .next t ∧ t.err ≠ .none) ∧
    (started tooSmall 0x10 0).busy = true ∧
      ∃ t, commandStep (started tooSmall 0x10 0) = .next t ∧ t.err ≠ .none :=
  ⟨⟨rfl, _, rfl, by decide⟩, rfl, _, rfl, by decide⟩

/-- IllegalWordEndsAtOnce: with the host's next input waiting. -/
theorem witness_IllegalWord : (told blank [.wait]).busy = false ∧ decode 0x11 = .error .reservedBits ∧
    (told blank [.wait]).resetNext = false := by decide

/-- UnwrittenElementFaultsCommand: its three clauses. -/
theorem witness_UnwrittenElement :
    ((loaded 1 1 []).operands.pixels ≤ (loaded 1 1 []).cfg.carDepth ∧ ¬(loaded 1 1 []).carLoaded) ∧
    ((embedded 1 1 1 1 [black] []).operands.embW = (embedded 1 1 1 1 [black] []).operands.carW ∧
      (embedded 1 1 1 1 [black] []).operands.embH = (embedded 1 1 1 1 [black] []).operands.carH ∧
      ¬((embedded 1 1 1 1 [black] []).carLoaded ∧ (embedded 1 1 1 1 [black] []).embLoaded)) ∧
    ((texted 7 1 [] []).operands.pixels ≤ (texted 7 1 [] []).cfg.carDepth ∧
      (texted 7 1 [] []).operands.chars ≤ (texted 7 1 [] []).cfg.txtInDepth ∧
      ceilDiv (8 * ((texted 7 1 [] []).operands.chars + 5 + (texted 7 1 [] []).operands.chars % 6)) 6 ≤
        (texted 7 1 [] []).operands.pixels ∧
      ¬((texted 7 1 [] []).carLoaded ∧ (texted 7 1 [] []).tinLoaded)) := by
  unfold State.carLoaded State.embLoaded State.tinLoaded; decide

/-- CommandsReadNoOutputBuffer: two states that differ in ORGB. -/
theorem witness_ReadsNoOutput :
    let u := { weaveTwo with mem := { weaveTwo.mem with orgb := filled [black] } }
    u ≠ weaveTwo ∧ u.cfg = weaveTwo.cfg ∧ u.operands = weaveTwo.operands ∧ u.mem.car = weaveTwo.mem.car ∧
      u.mem.emb = weaveTwo.mem.emb ∧ u.mem.tin = weaveTwo.mem.tin ∧ u.draws = weaveTwo.draws ∧
      ∃ t, exec .weave weaveTwo = .next t :=
  ⟨fun h => absurd (congrArg (fun s : State => s.mem.orgb) h) (by decide), rfl, rfl, rfl, rfl, rfl, rfl, _, rfl⟩

/-- AcceptedCmdWrite, IdleRegisterWrites, IdleRegisterReads. -/
theorem witness_Idle : blank.busy = false ∧ 7 ≤ 7 ∧ 10 ≤ 15 ∧ blank.older = [] ∧
    ({ blank with older := [Memory.unwritten] } : State).older ≠ [] := by decide

/-- BusyWritesAreLost: the last register, and the first element past the end of REG. -/
theorem witness_BusyWrites : (started blank 1 1).busy = true ∧ 15 < blank.cfg.depth .reg ∧
    (Space.reg, 15) ≠ (Space.reg, 1) ∧ blank.cfg.depth .reg ≤ 16 := by decide

/-- StatusWordLayout. -/
theorem witness_StatusBit : 10 ≤ 31 := by decide

/-- WriteThenReadElement: the last element of TOUT, and of every other buffer. -/
theorem witness_WriteThenRead : blank.busy = false ∧ Space.tout ≠ Space.reg ∧ 35 < blank.cfg.depth .tout ∧
    (Space.tout, 34) ≠ (Space.tout, 35) ∧
    ∀ S ∈ [Space.car, .emb, .tin, .orgb, .oidx], S ≠ .reg ∧ 15 < blank.cfg.depth S := by decide

/-- PastTheEnd: the first index past the end of CAR, while IDLE. -/
theorem witness_PastTheEnd : blank.cfg.depth .car ≤ 16 ∧ blank.busy = false := by decide

/-- ReadsHaveNoSideEffect, while IDLE and while BUSY. -/
theorem witness_ReadAnswers : (∃ t, hostRead (blacks 1) .car 0 = .next t) ∧
    ∃ t, hostRead (started (blacks 1) 1 1) .reg 9 = .next t := ⟨⟨_, rfl⟩, _, rfl⟩

/-- HostReadOfUnwrittenFaults: an unwritten element, a written one, and STATUS. -/
theorem witness_HostReadUnwritten : (blacks 1).busy = false ∧ 15 < (blacks 1).cfg.depth .car ∧
    (blacks 1).element .car 15 = none ∧ (blacks 1).element .car 0 = some 0 ∧ 1 < (blacks 1).cfg.depth .reg ∧
    (blacks 1).element .reg 1 = some 0 ∧ (blacks 1).older = [] := by decide

/-- ReadsUntilTheEndIsSeen: a running command in a state that keeps R26; the first and last index of each range of
registers; a written and an unwritten input element. -/
theorem witness_ReadsWhileBusy :
    let s := started (blacks 1) 1 1
    s.seq = .run 1 s.toLatch 1 ∧ s.statusSound ∧ (0 < 7 ∧ 6 < 7 ∧ 10 ≤ 10) ∧ 15 < s.cfg.depth .car ∧
      s.element .car 0 = some 0 ∧ s.element .car 15 = none ∧ 15 < s.cfg.depth .oidx :=
  ⟨rfl, by unfold State.statusSound; decide, by decide, by decide, by decide, by decide, by decide⟩

/-- ReadsUntilTheEndIsSeen: an output element that holds what the running command leaves there, so that a read answers
whichever of the two it takes. -/
theorem witness_ReadsOutputWhileBusy :
    let s := started { blacks 1 with mem := { Memory.unwritten with car := filled [black], oidx := [(0, 0)] } } 1 1
    s.seq = .run 1 s.toLatch 1 ∧ 0 < s.cfg.depth .oidx ∧ ∃ t, hostRead s .oidx 0 = .next t := by
  refine ⟨rfl, by decide, ?_⟩
  show ∃ t, racedRead _ _ _ = .next t
  unfold racedRead
  split
  · exact ⟨_, rfl⟩
  · obtain ⟨m, hm, e⟩ := unsettledRead_eq (started { blacks 1 with
      mem := { Memory.unwritten with car := filled [black], oidx := [(0, 0)] } } 1 1) .oidx 0
    rw [e]
    have : m = { Memory.unwritten with car := filled [black], oidx := [(0, 0)] } := by
      simpa [started, blacks, loaded, blank, State.reset] using hm
    subst this
    exact ⟨_, rfl⟩

/-- ReadsUntilTheEndIsSeen: an IDLE block whose last command the host has not seen end, an output element that has held
one thing all along, and one that had nothing before. -/
theorem witness_ReadsUnseen :
    let m : Memory := { Memory.unwritten with oidx := [(0, 1)] }
    let n : Memory := { Memory.unwritten with oidx := [(0, 1), (1, 2)] }
    let s : State := { blank with mem := n, older := [m], endUnseen := true }
    s.busy = false ∧ 1 < s.cfg.depth .oidx ∧ (∀ k ∈ s.mem :: s.older, s.elementIn k .oidx 0 = some 1) ∧
      s.elementIn m .oidx 1 = none ∧ s.elementIn n .oidx 1 = some 2 := by decide

/-- BusAccessIsItsTransaction: the last element of TOUT. -/
theorem witness_BusAccess : blank.cfg.ok = true ∧ 35 < blank.cfg.depth .tout := by decide

/-- UnsupportedBusAccessRefused: narrow, wide, misaligned, the first address past the end of TOUT, and an overlap with
reset while a command is due. -/
theorem witness_Unsupported : (2 ≠ 4 ∧ 8 ≠ 4) ∧ 9 % 4 ≠ 0 ∧ 528 % 4 = 0 ∧
    (∀ S ∈ Space.all, 528 < blank.cfg.base S ∨ blank.cfg.base S + 4 * blank.cfg.depth S ≤ 528) ∧
    (told (started (blacks 1) 1 0) [.txnDuringReset (.read .reg 1)]).inputs =
      .txnDuringReset (.read .reg 1) :: [] := by decide

/-- CopyMovesOneElement. -/
theorem witness_Copy :
    let s := told { blank with mem := { Memory.unwritten with orgb := filled [black] } }
      ([stmtRead .orgb 0, .txn (.write .car 0 .answer)] ++ [.wait])
    s.seq = .idle ∧ s.older = [] ∧ 0 < s.cfg.carDepth ∧
      s.inputs = [stmtRead .orgb 0, .txn (.write .car 0 .answer)] ++ [.wait] ∧
      Buffer.read s.mem.orgb 0 = some black := by decide

/-- StepRunsDecodedCommand: a command that is due while the host has more to do, one that is alone, and a table word. -/
theorem witness_StepRuns :
    (let s := told (started (blacks 1) 1 0) [.wait];
      s.seq = .run 1 s.toLatch 0 ∧ decode 1 = .ok .extract ∧ s.resetNext = false) ∧
    (let s := started (blacks 1) 1 5;
      s.seq = .run 1 s.toLatch 5 ∧ s.inputs = [] ∧ s.resetNext = false) ∧
    decodeTableWord 32 4 = some .weaveTxt := by decide

/-- StepRunsDecodedCommand: the host's input, of an IDLE block and while a command is not due. -/
theorem witness_StepTakesInput :
    (let s := told blank [stmtWriteReg .carW 9];
      s.inputs = stmtWriteReg .carW 9 :: [] ∧ s.seq = .idle) ∧
    let s := told (started (blacks 1) 1 1) [.wait]
    s.inputs = .wait :: [] ∧ s.seq = .run 1 s.toLatch (0 + 1) := by decide

/-- IdleBlockStays. -/
theorem witness_IdleBlock : State.reset.seq = .idle ∧ State.reset.inputs = [] := ⟨rfl, rfl⟩

/-- ResetValues and ResetOutranksAndClears: reset asserted on a running command that is due. -/
theorem witness_Reset : (told (started (blacks 1) 1 0) [.reset, .wait]).inputs = .reset :: [.wait] ∧
    Space.car ≠ Space.reg := by decide

/-- ResetOutranksAndClears: reset asserted on a running WEAVE_TXT of seven pixels, and on one that is over its capacity,
with a draw cut off before. -/
theorem witness_ResetCutsWeaveTxt :
    (told (started weaveEmpty 4 3) [.reset]).inputs = .reset :: [] ∧ (started weaveEmpty 4 3).weavingText ∧
    ¬(started tooSmall 4 3).weavingText ∧ (0 ∈ ({ blank with draws := 1, undrawn := [0] } : State).undrawn) := by
  refine ⟨rfl, ⟨4, _, 3, rfl, by decide⟩, ?_, by decide⟩
  rintro ⟨w, l, d, h, -, -, -, h'⟩
  cases h
  exact absurd h' (by decide)

/-- StepKeepsSound, StepKeepsMemoryCanonical, ParametersNeverChange: a sound state with a running command, and its
step. -/
theorem witness_StepKeepsSound : (started weaveTwo 2 0).Sound ∧ ∃ t, step (started weaveTwo 2 0) = .next t := by
  refine ⟨?_, _, rfl⟩
  unfold State.Sound State.memSound State.statusSound State.resultsBounded
  exact ⟨by decide, by decide, by decide, ⟨rfl, rfl, rfl, rfl⟩, by decide⟩

/-- StepKeepsMemoryCanonical: canonical memory in a state that is not sound. -/
theorem witness_CanonicalNotSound :
    (∀ m ∈ ({ blank with err := .notFound } : State).mem :: ({ blank with err := .notFound } : State).older,
      m.wf = true) ∧
    ¬({ blank with err := .notFound } : State).Sound :=
  ⟨by decide, fun h => h.2.2.1.2.2.2.2 rfl⟩

/-- RunningCommandSeesFrozenInputs: a command that lets a host write pass. -/
theorem witness_Frozen :
    let s := told (started (blacks 1) 1 2) [stmtWriteReg .carW 9]
    s.busy = true ∧ ∃ t, step s = .next t ∧ t.busy = true := ⟨rfl, _, rfl, rfl⟩

/-- WbusyIsSticky: cleared by a STATUS write of 0x200. -/
theorem witness_Wbusy :
    let s := told { blank with wbusy := true } [stmtClrWbusy]
    s.wbusy = true ∧ ∃ t, step s = .next t ∧ t.wbusy = false := ⟨rfl, _, rfl, rfl⟩

/-- OnlyTheSequencerSetsResults: a host's move that leaves DONE set. -/
theorem witness_OnlySequencer :
    let s := told { blank with done := true } [stmtClrWbusy]
    s.sequencerMoves = false ∧ ∃ t, step s = .next t ∧ t.done = true := ⟨rfl, _, rfl, rfl⟩

/-- BlockNeverWritesInputs: a sequencer's move that succeeds. -/
theorem witness_BlockNeverWrites :
    (started weaveTwo 2 0).sequencerMoves = true ∧ ∃ t, step (started weaveTwo 2 0) = .next t ∧ t.ok = true :=
  ⟨rfl, _, rfl, rfl⟩

/-- EveryCommandEnds: a command with three inputs to let pass, which ends IDLE. -/
theorem witness_EveryCommandEnds :
    let s := told (started (blacks 1) 1 3) [.wait]
    s.seq = .run 1 s.toLatch 3 ∧ ∃ t, Host.Core.run Sys2Proof.core 4 s = .next t ∧ t.seq = .idle :=
  ⟨rfl, _, rfl, rfl⟩

/-- EveryCommandEnds, ProgramEndAndObservation: commands that are ready, with every element written or with an error, and
an illegal word. -/
theorem witness_Ready :
    let s := told (started (blacks 1) 1 3) [.wait]
    s.seq = .run 1 s.toLatch (2 + 1) ∧ s.inputs = .wait :: [] ∧ s.ready .extract ∧ s.ready .extractTxt ∧
      weaveTwo.ready .weave ∧ (embedded 3 2 2 3 [] []).ready .weave ∧ weaveA.ready .weaveTxt ∧
      tooSmall.ready .weaveTxt ∧ ∀ i, decode 0x11 ≠ .ok i := by
  refine ⟨rfl, rfl, .inr ?_, .inr ?_, .inr (.inr (.inr ⟨?_, ?_⟩)), .inr (.inl ?_),
    .inr (.inr (.inr ⟨?_, ?_⟩)), .inr (.inr (.inl ?_)), fun i => ?_⟩
  all_goals first
    | decide
    | (unfold State.carLoaded; decide)
    | (unfold State.embLoaded; decide)
    | (unfold State.tinLoaded; decide)
    | (cases i <;> decide)

/-- ProgramEndAndObservation: an ended program; a poll that shows the end of a command; a command with `wait` alone to
come, which ends; and a state with two draws made. -/
theorem witness_ProgramEnd :
    State.reset.programEnded = true ∧
    (let s := told { blank with endUnseen := true } [.wait];
      ∃ t, step s = .next t ∧ s.endUnseen = true ∧ t.endUnseen = false) ∧
    (let s := told (started (blacks 1) 1 2) [.wait];
      s.seq = .run 1 s.toLatch 2 ∧ s.inputs = [.wait] ∧
        ∃ t, Host.Core.run Sys2Proof.core 4 s = .next t ∧ t.programEnded = true) ∧
    1 < ({ blank with draws := 2 } : State).draws ∧ ({ blank with draws := 2 } : State).undrawn = [] :=
  ⟨rfl, ⟨_, rfl, rfl, rfl⟩, ⟨rfl, rfl, _, rfl, rfl⟩, by decide, rfl⟩

/-- R204: a command that has ended and whose end no read of STATUS has shown keeps the program from its end. -/
theorem test_end_unseen : nextHas (step (started (blacks 1) 1 0))
    (fun t => !t.busy && t.inputs.isEmpty && !t.programEnded) = true := by decide

/-- R192, R14: the draws of a WEAVE_TXT that reset has cut are not made again. -/
theorem test_reset_cuts_draws : nextHas (step (told (started weaveEmpty 4 3) [.reset]))
    (fun t => t.draws == 7 && t.seq == .idle) = true := by decide

/-- R150, R204: a WEAVE_TXT over its capacity draws no filler, so a reset that cuts it passes over no draw. -/
theorem test_reset_cuts_no_draws : nextHas (step (told (started tooSmall 4 3) [.reset]))
    (fun t => t.draws == 0 && t.undrawn == []) = true := by decide

/-- R196: until a read of STATUS shows the end, `wait` included, a read of ORGB may show what it held; after it, no more. -/
theorem test_wait_settles : nextHas (step (told (started weaveTwo 2 0) [.wait]))
    (fun t => t.older == [weaveTwo.mem] && nextHas (step t) (fun u => u.older == [])) = true := by decide

end Sys2Proof.Machine.Tests
end

section
/-! PROOF. The implementation's parameters along a step (00_scope.md R9, 70_reset_and_hazards.md R193). -/

namespace Sys2Proof.Machine

variable {s t : State}

@[simp] theorem endIllegal_cfg (s : State) : s.endIllegal.cfg = s.cfg := rfl

@[simp] theorem idleWrite_cfg (s : State) (S : Space) (i : Nat) (w : Word) : (idleWrite s S i w).cfg = s.cfg := by
  rcases idleWrite_cases s S i w with h | ⟨-, -, h⟩ | ⟨-, -, h⟩ | ⟨-, -, h⟩ | ⟨_, _, _, _, _, h⟩ <;> simp [h]

@[simp] theorem hostWrite_cfg (s : State) (S : Space) (i : Nat) (w : Word) : (hostWrite s S i w).cfg = s.cfg := by
  rcases hostWrite_cases s S i w with ⟨-, b, k, h⟩ | ⟨-, h⟩ <;> simp [h]

theorem exec_keeps_cfg {i : Instr} (h : exec i s = .next t) : t.cfg = s.cfg := by
  obtain ⟨-, -, -, ⟨hcfg, -⟩, -⟩ := exec_next_frame h
  exact hcfg

theorem hostMove_keeps_cfg (h : hostMove s = .next t) : t.cfg = s.cfg := by
  rcases hostMove_next h with ⟨-, rfl⟩ | ⟨rest, -, rfl⟩ | ⟨x, rest, S, i, d, -, -, rfl⟩ |
    ⟨-, -, w, k, rest, b, o, -, rfl⟩
  · rfl
  · exact assertReset_cfg s
  · simp
  · exact inputPasses_cfg s

/-- Settles O59: a step is the end of a command, legal or not, or the host's turn, reset included, and each of them
keeps the parameters. -/
theorem parametersNeverChange : Obligations.ParametersNeverChange := by
  intro s t h
  rcases step_next h with ⟨-, w, l, d, -, ⟨i, -, hexec⟩ | ⟨e, -, rfl⟩⟩ | ⟨-, hhost⟩
  · exact exec_keeps_cfg hexec
  · exact endIllegal_cfg s
  · exact hostMove_keeps_cfg hhost

end Sys2Proof.Machine
end

section
/-! SUPPORT. How long the extracted text is (42_text_codec.md R145, with 00_scope.md R9's constraint on TOUT). -/

namespace Sys2Proof.Machine

theorem seq6_length (p : Pixel) : (seq6 p).length = 6 := rfl

theorem stream_length (px : List Pixel) : (stream px).length = 6 * px.length := by
  simp [stream, List.length_flatMap, seq6_length, mul_comm]

theorem tailChunk_length_le (mode : TailMode) (x : Bits) :
    (tailChunk mode x).length ≤ if x.length % 8 = 0 then 0 else 1 := by
  unfold tailChunk
  split
  · rfl
  · cases mode <;> simp

theorem regroup_length_le (mode : TailMode) (x : Bits) : (regroup mode x).length ≤ ceilDiv x.length 8 := by
  have htail := tailChunk_length_le mode x
  simp only [regroup, fullChunks, List.length_append, List.length_map, List.length_range, ceilDiv]
  split at htail <;> omega

theorem decodeChunk_length_le (p : Params) (c : Byte) : (decodeChunk p c).length ≤ 3 := by
  unfold decodeChunk
  split <;> simp [placeholder]

theorem decodedText_length_le (p : Params) (px : List Pixel) :
    (decodedText p px).length ≤ 3 * ceilDiv (6 * px.length) 8 := by
  have hchunks := regroup_length_le p.tailMode (stream px)
  rw [stream_length] at hchunks
  calc (decodedText p px).length
      = ((regroup p.tailMode (stream px)).map fun c => (decodeChunk p c).length).sum := List.length_flatMap
    _ ≤ (regroup p.tailMode (stream px)).length * 3 := by
        simpa using List.sum_le_card_nsmul
          ((regroup p.tailMode (stream px)).map fun c => (decodeChunk p c).length) 3
          (by simpa using fun c _ => decodeChunk_length_le p c)
    _ ≤ 3 * ceilDiv (6 * px.length) 8 := by omega

theorem textBeforeSentinel_length_le (d : List Byte) : (textBeforeSentinel d).length ≤ d.length := by
  unfold textBeforeSentinel
  split
  · exact List.length_take_le' ..
  · rfl

/-- R9's constraint on TXT_OUT_DEPTH. -/
theorem Params.ok_txtOutDepth {p : Params} (h : p.ok = true) : 3 * ceilDiv (6 * p.carDepth) 8 ≤ p.txtOutDepth := by
  simp only [Params.ok, Bool.and_eq_true, decide_eq_true_eq] at h
  obtain ⟨⟨-, htout⟩, -⟩ := h
  exact htout

theorem extractedText_length_le {p : Params} {px : List Pixel} (hp : p.ok = true) (hpx : px.length ≤ p.carDepth) :
    (textBeforeSentinel (decodedText p px)).length ≤ p.txtOutDepth :=
  calc (textBeforeSentinel (decodedText p px)).length
      ≤ (decodedText p px).length := textBeforeSentinel_length_le _
    _ ≤ 3 * ceilDiv (6 * px.length) 8 := decodedText_length_le p px
    _ ≤ 3 * ceilDiv (6 * p.carDepth) 8 := by unfold ceilDiv; omega
    _ ≤ p.txtOutDepth := Params.ok_txtOutDepth hp

end Sys2Proof.Machine
end

section
/-! SUPPORT. What a command leaves in the buffers, in STATUS and in the result registers, said once for all four. -/

namespace Sys2Proof.Machine

variable {s t : State}

/-- A command leaves the buffers as they are, or stores into one output buffer: at most K elements into OIDX or ORGB, the
extracted text into TOUT. -/
theorem exec_next_mem {i : Instr} (h : exec i s = .next t) :
    t.mem = s.mem ∨
    s.operands.pixels ≤ s.cfg.carDepth ∧
      ((∃ vs, vs.length ≤ s.operands.pixels ∧ t.mem = { s.mem with oidx := Buffer.store s.mem.oidx vs }) ∨
        (∃ px, px.length ≤ s.operands.pixels ∧ t.mem = { s.mem with orgb := Buffer.store s.mem.orgb px }) ∨
        ∃ px, px.length = s.operands.pixels ∧
          t.mem = { s.mem with tout := Buffer.store s.mem.tout (textBeforeSentinel (decodedText s.cfg px)) }) := by
  cases i with
  | extract =>
    rcases execExtract_next.1 h with ⟨-, rfl⟩ | ⟨hfit, px, hpx, rfl⟩
    · exact .inl rfl
    · obtain ⟨hlen, -⟩ := Buffer.load_eq_some.1 hpx
      exact .inr ⟨carrierFits_iff.1 hfit, .inl ⟨px.map ext332, by simp [hlen], rfl⟩⟩
  | weave =>
    rcases execWeave_next.1 h with ⟨-, rfl⟩ | ⟨-, -, rfl⟩ | ⟨hfit, -, px, vs, hpx, -, rfl⟩
    · exact .inl rfl
    · exact .inl rfl
    · obtain ⟨hlen, -⟩ := Buffer.load_eq_some.1 hpx
      exact .inr ⟨carrierFits_iff.1 hfit, .inr (.inl ⟨List.zipWith ins332 px vs, by simp [hlen], rfl⟩)⟩
  | extractTxt =>
    rcases execExtractTxt_next.1 h with ⟨-, rfl⟩ | ⟨hfit, px, hpx, rfl⟩
    · exact .inl rfl
    · obtain ⟨hlen, -⟩ := Buffer.load_eq_some.1 hpx
      exact .inr ⟨carrierFits_iff.1 hfit, .inr (.inr ⟨px, hlen, rfl⟩)⟩
  | weaveTxt =>
    rcases execWeaveTxt_next.1 h with ⟨-, rfl⟩ | ⟨-, -, rfl⟩ | ⟨hfit, -, text, px, -, hpx, rfl⟩
    · exact .inl rfl
    · exact .inl rfl
    · obtain ⟨hcar, -⟩ := Bool.or_eq_false_iff.1 hfit
      obtain ⟨hlen, -⟩ := Buffer.load_eq_some.1 hpx
      have hwoven : (s.wovenText text px).length = px.length := by simp [State.wovenText, wovenRaster]
      exact .inr ⟨carrierFits_iff.1 hcar, .inr (.inl ⟨s.wovenText text px, (hwoven.trans hlen).le, rfl⟩)⟩

theorem exec_keeps_wf {i : Instr} (h : exec i s = .next t) (hwf : s.mem.wf = true) : t.mem.wf = true := by
  simp only [Memory.wf, Bool.and_eq_true] at hwf ⊢
  rcases exec_next_mem h with hm | ⟨-, ⟨vs, -, hm⟩ | ⟨px, -, hm⟩ | ⟨px, -, hm⟩⟩ <;> rw [hm]
  · exact hwf
  all_goals obtain ⟨⟨⟨⟨⟨hcar, hemb⟩, htin⟩, horgb⟩, hoidx⟩, htout⟩ := hwf
  · exact ⟨⟨⟨⟨⟨hcar, hemb⟩, htin⟩, horgb⟩, Buffer.wf_store vs hoidx⟩, htout⟩
  · exact ⟨⟨⟨⟨⟨hcar, hemb⟩, htin⟩, Buffer.wf_store px horgb⟩, hoidx⟩, htout⟩
  · exact ⟨⟨⟨⟨⟨hcar, hemb⟩, htin⟩, horgb⟩, hoidx⟩, Buffer.wf_store _ htout⟩

theorem exec_keeps_within {i : Instr} (h : exec i s = .next t) (hok : s.cfg.ok = true)
    (hin : s.mem.within s.cfg = true) : t.mem.within s.cfg = true := by
  simp only [Memory.within, Bool.and_eq_true] at hin ⊢
  rcases exec_next_mem h with hm | ⟨hK, ⟨vs, hlen, hm⟩ | ⟨px, hlen, hm⟩ | ⟨px, hlen, hm⟩⟩ <;> rw [hm]
  · exact hin
  all_goals obtain ⟨⟨⟨⟨⟨hcar, hemb⟩, htin⟩, horgb⟩, hoidx⟩, htout⟩ := hin
  · exact ⟨⟨⟨⟨⟨hcar, hemb⟩, htin⟩, horgb⟩, Buffer.within_store vs (hlen.trans hK) hoidx⟩, htout⟩
  · exact ⟨⟨⟨⟨⟨hcar, hemb⟩, htin⟩, Buffer.within_store px (hlen.trans hK) horgb⟩, hoidx⟩, htout⟩
  · exact ⟨⟨⟨⟨⟨hcar, hemb⟩, htin⟩, horgb⟩, hoidx⟩,
      Buffer.within_store _ (extractedText_length_le hok (hlen.trans_le hK)) htout⟩

/-- SENT_FOUND goes with no error, and no command ends with NOT_FOUND (60_exceptions.md R169). -/
theorem exec_next_err {i : Instr} (h : exec i s = .next t) :
    (t.sentFound = true → t.err = .none) ∧ t.err ≠ .notFound := by
  cases i with
  | extract => rcases execExtract_next.1 h with ⟨-, rfl⟩ | ⟨-, px, -, rfl⟩ <;> simp
  | weave => rcases execWeave_next.1 h with ⟨-, rfl⟩ | ⟨-, -, rfl⟩ | ⟨-, -, px, vs, -, -, rfl⟩ <;> simp
  | extractTxt => rcases execExtractTxt_next.1 h with ⟨-, rfl⟩ | ⟨-, px, -, rfl⟩ <;> simp
  | weaveTxt => rcases execWeaveTxt_next.1 h with ⟨-, rfl⟩ | ⟨-, -, rfl⟩ | ⟨-, -, text, px, -, -, rfl⟩ <;> simp

theorem toNat_ofNat_le (n : Nat) : (BitVec.ofNat 32 n).toNat ≤ n := by
  rw [BitVec.toNat_ofNat]
  exact Nat.mod_le _ _

/-- The free value that OUT_LEN takes where 32 bits do not hold the count is below the count (log 20). -/
theorem outLenWord_toNat_le (count : Nat) : (outLenWord count).toNat ≤ count := by
  unfold outLenWord
  split
  · exact toNat_ofNat_le count
  · have := (Config.longOutLen count).isLt
    omega

theorem pixelBudget_le {n d : Nat} (h : n ≤ d) : pixelBudget n ≤ ceilDiv (8 * (d + 10)) 6 := by
  unfold pixelBudget frameLength ceilDiv
  omega

theorem budgetWord_toNat_le {n d : Nat} (h : n ≤ d) :
    (BitVec.ofNat 32 (pixelBudget n)).toNat ≤ ceilDiv (8 * (d + 10)) 6 :=
  (toNat_ofNat_le _).trans (pixelBudget_le h)

theorem raiseError_resultsBounded (code : ErrCode) (hb : s.resultsBounded) : (s.raiseError code).resultsBounded := by
  obtain ⟨-, hout, hreq⟩ := hb
  exact ⟨Nat.zero_le _, hout, hreq⟩

theorem endOk_resultsBounded {K : Nat} (found : Bool) (hK : K ≤ s.cfg.carDepth) (hb : s.resultsBounded) :
    (s.endOk K found).resultsBounded := by
  obtain ⟨-, hout, hreq⟩ := hb
  exact ⟨(toNat_ofNat_le K).trans hK, hout, hreq⟩

theorem withBudget_resultsBounded (hn : s.operands.chars ≤ s.cfg.txtInDepth) (hb : s.resultsBounded) :
    s.withBudget.resultsBounded := by
  obtain ⟨hprog, hout, -⟩ := hb
  exact ⟨hprog, hout, budgetWord_toNat_le hn⟩

theorem exec_keeps_resultsBounded {i : Instr} (h : exec i s = .next t) (hok : s.cfg.ok = true)
    (hb : s.resultsBounded) : t.resultsBounded := by
  cases i with
  | extract =>
    rcases execExtract_next.1 h with ⟨-, rfl⟩ | ⟨hfit, px, -, rfl⟩
    · exact raiseError_resultsBounded _ hb
    · exact endOk_resultsBounded _ (carrierFits_iff.1 hfit) hb
  | weave =>
    rcases execWeave_next.1 h with ⟨-, rfl⟩ | ⟨-, -, rfl⟩ | ⟨hfit, -, px, vs, -, -, rfl⟩
    · exact raiseError_resultsBounded _ hb
    · exact raiseError_resultsBounded _ hb
    · exact endOk_resultsBounded _ (carrierFits_iff.1 hfit) hb
  | extractTxt =>
    rcases execExtractTxt_next.1 h with ⟨-, rfl⟩ | ⟨hfit, px, hpx, rfl⟩
    · exact raiseError_resultsBounded _ hb
    · obtain ⟨hlen, -⟩ := Buffer.load_eq_some.1 hpx
      obtain ⟨hprog, -, hreq⟩ := hb
      have hK := carrierFits_iff.1 hfit
      exact endOk_resultsBounded _ hK
        ⟨hprog, (outLenWord_toNat_le _).trans (extractedText_length_le hok (hlen.trans_le hK)), hreq⟩
  | weaveTxt =>
    rcases execWeaveTxt_next.1 h with ⟨-, rfl⟩ | ⟨hfit, -, rfl⟩ | ⟨hfit, -, text, px, -, -, rfl⟩
    · exact raiseError_resultsBounded _ hb
    all_goals
      obtain ⟨hcar, htxt⟩ := Bool.or_eq_false_iff.1 hfit
      have hbudget := withBudget_resultsBounded (textFits_iff.1 htxt) hb
    · exact raiseError_resultsBounded _ hbudget
    · exact endOk_resultsBounded _ (carrierFits_iff.1 hcar) hbudget

end Sys2Proof.Machine
end

section
/-! SUPPORT. What a host write does and, with it, what the host's turn keeps of the buffers and the result flags. -/

namespace Sys2Proof.Machine

variable {s t : State}

/-- A host write changes at most WBUSY and the count of free choices, or, of an IDLE block, stores one existing buffer
element, accepts a command, or writes the geometry and length registers. -/
theorem hostWrite_effect (s : State) (S : Space) (i : Nat) (w : Word) :
    (∃ b k, hostWrite s S i w = { s with wbusy := b, fresh := k }) ∨
    s.busy = false ∧
      (i < s.cfg.depth S ∧ hostWrite s S i w = s.storeWord S i w ∨ hostWrite s S i w = s.accept w ∨
        ∃ a b c d n, hostWrite s S i w = { s with carW := a, carH := b, embW := c, embH := d, txtLen := n }) := by
  rcases hostWrite_cases s S i w with ⟨-, hlost⟩ | ⟨hb, h⟩
  · exact .inl hlost
  rw [h]
  rcases idleWrite_cases s S i w with h | ⟨-, hi, h⟩ | ⟨-, -, h⟩ | ⟨-, -, h⟩ | hgeom
  · exact .inl ⟨s.wbusy, s.fresh, h⟩
  · exact .inr ⟨hb, .inl ⟨hi, h⟩⟩
  · exact .inr ⟨hb, .inr (.inl h)⟩
  · exact .inl ⟨_, s.fresh, h⟩
  · exact .inr ⟨hb, .inr (.inr hgeom)⟩

theorem seq_idle_of_not_busy (h : s.busy = false) : s.seq = .idle := by
  cases hs : s.seq with
  | idle => rfl
  | run w l d => simp [busy_run hs] at h

section Memories

variable {P : Memory → Prop}

/-- A host write keeps of the buffers, and of the older ones, whatever a store below the depth keeps. -/
theorem hostWrite_keeps_memories (hstore : ∀ m S i w, i < s.cfg.depth S → P m → P (m.storeWord S i w))
    (hP : ∀ m ∈ s.mem :: s.older, P m) (S : Space) (i : Nat) (w : Word) :
    ∀ m ∈ (hostWrite s S i w).mem :: (hostWrite s S i w).older, P m := by
  rcases hostWrite_effect s S i w with ⟨b, k, h⟩ | ⟨-, ⟨hi, h⟩ | h | ⟨_, _, _, _, _, h⟩⟩ <;> rw [h]
  · exact hP
  · change ∀ m ∈ (s.mem :: s.older).map fun m => m.storeWord S i w, P m
    exact List.forall_mem_map.2 fun m hm => hstore m S i w hi (hP m hm)
  · exact List.forall_mem_cons.2 ⟨hP s.mem List.mem_cons_self, hP⟩
  · exact hP

theorem hostMove_keeps_memories (hstore : ∀ m S i w, i < s.cfg.depth S → P m → P (m.storeWord S i w))
    (hreset : P Memory.unwritten) (hP : ∀ m ∈ s.mem :: s.older, P m) (h : hostMove s = .next t) :
    ∀ m ∈ t.mem :: t.older, P m := by
  rcases hostMove_next h with ⟨-, rfl⟩ | ⟨rest, -, rfl⟩ | ⟨x, rest, S, i, d, -, -, rfl⟩ |
    ⟨-, -, w, k, rest, b, o, ho, rfl⟩
  · exact hP
  · simpa using hreset
  · exact hostWrite_keeps_memories (by simpa using hstore) (by simpa using hP) S i _
  · rcases ho with rfl | ⟨-, rfl⟩
    · simpa using hP
    · simpa using hP s.mem List.mem_cons_self

/-- A step keeps of the buffers, and of the older ones, whatever a command, a store below the depth and reset keep. -/
theorem step_keeps_memories (hexec : ∀ i u, exec i s = .next u → P s.mem → P u.mem)
    (hstore : ∀ m S i w, i < s.cfg.depth S → P m → P (m.storeWord S i w))
    (hreset : P Memory.unwritten) (hP : ∀ m ∈ s.mem :: s.older, P m) (h : step s = .next t) :
    ∀ m ∈ t.mem :: t.older, P m := by
  rcases step_next h with ⟨-, w, l, d, -, ⟨i, -, he⟩ | ⟨e, -, rfl⟩⟩ | ⟨-, hh⟩
  · obtain ⟨-, -, -, -, -, -, -, -, holder, -⟩ := exec_next_frame he
    obtain ⟨hmem, hold⟩ := List.forall_mem_cons.1 hP
    exact List.forall_mem_cons.2 ⟨hexec i t he hmem, holder ▸ hold⟩
  · exact hP
  · exact hostMove_keeps_memories hstore hreset hP hh

end Memories

/-- The result flags of `t`, DONE, OK, ERR and SENT_FOUND (10_state.md R26), are those of `s`. -/
def State.sameResults (s t : State) : Prop :=
  t.done = s.done ∧ t.ok = s.ok ∧ t.err = s.err ∧ t.sentFound = s.sentFound

/-- No result flag is set, as after an accepted CMD write or reset (R27). -/
def State.noResults (t : State) : Prop :=
  t.done = false ∧ t.ok = false ∧ t.err = .none ∧ t.sentFound = false

theorem hostWrite_results (s : State) (S : Space) (i : Nat) (w : Word) :
    (s.sameResults (hostWrite s S i w) ∧ (hostWrite s S i w).busy = s.busy) ∨ (hostWrite s S i w).noResults := by
  have same : s.sameResults s := ⟨rfl, rfl, rfl, rfl⟩
  rcases hostWrite_effect s S i w with ⟨b, k, h⟩ | ⟨-, ⟨-, h⟩ | h | ⟨_, _, _, _, _, h⟩⟩ <;> rw [h]
  · exact .inl ⟨same, rfl⟩
  · exact .inl ⟨same, rfl⟩
  · exact .inr ⟨rfl, rfl, rfl, rfl⟩
  · exact .inl ⟨same, rfl⟩

/-- The host's turn leaves the result flags and BUSY as they are, or clears every result flag. -/
theorem hostMove_results (h : hostMove s = .next t) :
    (s.sameResults t ∧ t.busy = s.busy) ∨ t.noResults := by
  have passes : s.sameResults s.inputPasses := ⟨by simp, by simp, by simp, by simp⟩
  rcases hostMove_next h with ⟨-, rfl⟩ | ⟨rest, -, rfl⟩ | ⟨x, rest, S, i, d, -, -, rfl⟩ |
    ⟨-, -, w, k, rest, b, o, -, rfl⟩
  · exact .inl ⟨⟨rfl, rfl, rfl, rfl⟩, rfl⟩
  · exact .inr ⟨rfl, rfl, rfl, rfl⟩
  · refine (hostWrite_results { s.inputPasses with inputs := rest } S i (s.datum d)).imp_left ?_
    rintro ⟨⟨hdone, hok, herr, hsent⟩, hbusy⟩
    obtain ⟨hdone', hok', herr', hsent'⟩ := passes
    exact ⟨⟨hdone.trans hdone', hok.trans hok', herr.trans herr', hsent.trans hsent'⟩,
      hbusy.trans (busy_inputPasses s)⟩
  · exact .inl ⟨passes, busy_inputPasses s⟩

end Sys2Proof.Machine
end

section
/-! PROOF. What every step keeps, part by part: canonical memory (log 2), inputs, result flags and WBUSY (10_state.md
R26, R27, R40), and the whole invariant. -/

namespace Sys2Proof.Machine

variable {s t : State}

/-- Settles O53: a command's store, a host's store and reset each keep the indices rising. -/
theorem stepKeepsMemoryCanonical : Obligations.StepKeepsMemoryCanonical := by
  intro s t hwf h
  exact step_keeps_memories (fun _ _ he => exec_keeps_wf he) (fun _ S i w _ => Memory.wf_storeWord S i w)
    Memory.unwritten_wf hwf h

/-- Settles O57: a command's end keeps them by its frame, and the end of an illegal word writes flags and PROGRESS only. -/
theorem blockNeverWritesInputs : Obligations.BlockNeverWritesInputs := by
  intro s t hseq h
  rcases step_next h with ⟨-, w, l, d, -, ⟨i, -, he⟩ | ⟨e, -, rfl⟩⟩ | ⟨hstays, -⟩
  · obtain ⟨-, -, -, hsame, -⟩ := exec_next_frame he
    exact hsame
  · exact ⟨rfl, rfl, rfl, rfl, rfl, rfl, rfl, rfl, rfl, rfl, rfl⟩
  · simp [hseq] at hstays

/-- Settles O56: where the sequencer does not move, the host does, and it clears every result flag or none. -/
theorem onlyTheSequencerSetsResults : Obligations.OnlyTheSequencerSetsResults := by
  intro s t h hseq
  rcases step_next h with ⟨hmoves, -⟩ | ⟨-, hhost⟩
  · simp [hseq] at hmoves
  rcases hostMove_results hhost with ⟨⟨hdone, hok, herr, hsent⟩, -⟩ | ⟨hdone, hok, herr, hsent⟩ <;>
    simp [hdone, hok, herr, hsent]

/-- Of all host writes, only one to STATUS with bit 9 = 1 clears WBUSY; every other leaves or sets it (10_state.md R26). -/
theorem hostWrite_clears_wbusy {S : Space} {i : Nat} {w : Word} (hset : s.wbusy = true)
    (hclear : (hostWrite s S i w).wbusy = false) : S = .reg ∧ i = 1 ∧ w.getLsbD 9 = true := by
  cases hb : s.busy with
  | true =>
    by_cases hstatus : S = .reg ∧ i = 1
    · simpa [hostWrite, busyWrite, hb, hstatus, hset] using hclear
    · have hlost : (hostWrite s S i w).wbusy = true := by
        simp only [hostWrite, busyWrite, strayWrite, hb, hstatus, if_true, if_false]
        split_ifs <;> simp [hset]
      simp [hlost] at hclear
  | false =>
    rcases hostWrite_cases s S i w with ⟨hb', -⟩ | ⟨-, h⟩
    · simp [hb] at hb'
    rw [h] at hclear
    rcases idleWrite_cases s S i w with h | ⟨-, -, h⟩ | ⟨-, -, h⟩ | ⟨hS, hi, h⟩ | ⟨_, _, _, _, _, h⟩ <;>
      rw [h] at hclear
    · simp [hset] at hclear
    · simp [hset] at hclear
    · simp [hset] at hclear
    · exact ⟨hS, hi, by rwa [writeStatus_wbusy, hset, Bool.true_and, Bool.not_eq_false'] at hclear⟩
    · simp [hset] at hclear

/-- Settles O55: a command's end keeps WBUSY, and of the host's inputs reset and a STATUS write alone clear it. -/
theorem wbusyIsSticky : Obligations.WbusyIsSticky := by
  intro s t h hset hclear
  rcases step_next h with ⟨-, w, l, d, -, ⟨i, -, he⟩ | ⟨e, -, rfl⟩⟩ | ⟨-, hh⟩
  · obtain ⟨-, -, -, ⟨-, -, hkept, -⟩, -⟩ := exec_next_frame he
    simp [hkept, hset] at hclear
  · simp [State.endIllegal, hset] at hclear
  rcases hostMove_next hh with ⟨-, rfl⟩ | ⟨rest, hin, -⟩ | ⟨x, rest, S, i, d, hin, hx, rfl⟩ |
    ⟨-, -, w, k, rest, b, o, -, rfl⟩
  · simp [hset] at hclear
  · exact ⟨.reset, rest, hin, .inl rfl⟩
  · obtain ⟨rfl, rfl, hbit⟩ := hostWrite_clears_wbusy (by simpa using hset) hclear
    refine ⟨x, rest, hin, .inr ⟨d, hbit, hx.imp_right ?_⟩⟩
    rintro ⟨a, hxa, hdata, hspace, hidx⟩
    exact ⟨a, hxa, hdata, hspace, hidx.symm⟩
  · simp [hset] at hclear

/-! ## The invariant -/

theorem Memory.unwritten_within (p : Params) : Memory.unwritten.within p = true := rfl

theorem step_keeps_memSound (hok : s.cfg.ok = true) (hm : s.memSound) (h : step s = .next t) : t.memSound := by
  have hkeep : ∀ m ∈ t.mem :: t.older, m.wf = true ∧ m.within s.cfg = true :=
    step_keeps_memories (fun i u he ⟨hwf, hin⟩ => ⟨exec_keeps_wf he hwf, exec_keeps_within he hok hin⟩)
      (fun m S i w hi ⟨hwf, hin⟩ => ⟨Memory.wf_storeWord S i w hwf, Memory.within_storeWord w hi hin⟩)
      ⟨Memory.unwritten_wf, Memory.unwritten_within s.cfg⟩ hm h
  unfold State.memSound
  rwa [parametersNeverChange s t h]

theorem statusSound_of_noResults (h : t.noResults) : t.statusSound := by
  obtain ⟨hdone, hok, herr, hsent⟩ := h
  simp [State.statusSound, hdone, hok, herr, hsent]

theorem statusSound_of_end (hseq : t.seq = .idle) (hdone : t.done = true) (hok : t.ok = (t.err == .none))
    (hsent : t.sentFound = true → t.err = .none) (herr : t.err ≠ .notFound) : t.statusSound :=
  ⟨by simp [busy_idle hseq], by simp [hdone], fun _ => hok, fun h => by simp [hok, hsent h], herr⟩

theorem hostMove_keeps_statusSound (h : hostMove s = .next t) (hs : s.statusSound) : t.statusSound := by
  rcases hostMove_results h with ⟨⟨hdone, hok, herr, hsent⟩, hbusy⟩ | hclear
  · unfold State.statusSound
    rwa [hdone, hok, herr, hsent, hbusy]
  · exact statusSound_of_noResults hclear

theorem step_keeps_statusSound (h : step s = .next t) (hs : s.statusSound) : t.statusSound := by
  rcases step_next h with ⟨-, w, l, d, -, ⟨i, -, he⟩ | ⟨e, -, rfl⟩⟩ | ⟨-, hh⟩
  · obtain ⟨hseq, hdone, hok, -⟩ := exec_next_frame he
    obtain ⟨hsent, herr⟩ := exec_next_err he
    exact statusSound_of_end hseq hdone hok hsent herr
  · exact statusSound_of_end rfl rfl rfl nofun nofun
  · exact hostMove_keeps_statusSound hh hs

theorem runSound_of_idle (h : s.seq = .idle) : s.runSound := by simp [State.runSound, h]

theorem inputPasses_runSound (hr : s.runSound) : s.inputPasses.runSound := by
  cases hs : s.seq with
  | idle => simpa [State.inputPasses, hs] using hr
  | run w l d =>
    simp only [State.runSound, hs] at hr
    have hpass : s.inputPasses = { s with seq := .run w l (d - 1) } := by simp [State.inputPasses, hs]
    rw [hpass]
    exact hr

theorem hostWrite_keeps_runSound (hr : s.runSound) (S : Space) (i : Nat) (w : Word) :
    (hostWrite s S i w).runSound := by
  rcases hostWrite_effect s S i w with ⟨b, k, h⟩ | ⟨hb, ⟨-, h⟩ | h | ⟨_, _, _, _, _, h⟩⟩ <;> rw [h]
  · exact hr
  · exact runSound_of_idle (seq_idle_of_not_busy hb)
  · exact ⟨rfl, rfl, rfl, rfl⟩
  · exact runSound_of_idle (seq_idle_of_not_busy hb)

theorem hostMove_keeps_runSound (h : hostMove s = .next t) (hr : s.runSound) : t.runSound := by
  have hpass := inputPasses_runSound hr
  rcases hostMove_next h with ⟨-, rfl⟩ | ⟨rest, -, rfl⟩ | ⟨x, rest, S, i, d, -, -, rfl⟩ |
    ⟨-, -, w, k, rest, b, o, ho, rfl⟩
  · exact hr
  · exact runSound_of_idle rfl
  · exact hostWrite_keeps_runSound (s := { s.inputPasses with inputs := rest }) hpass S i _
  · rcases ho with rfl | ⟨hb, rfl⟩
    · rw [← inputPasses_older s]; exact hpass
    · exact runSound_of_idle (seq_idle_of_not_busy ((busy_inputPasses s).trans hb))

theorem step_keeps_runSound (h : step s = .next t) (hr : s.runSound) : t.runSound := by
  rcases step_next h with ⟨-, w, l, d, -, ⟨i, -, he⟩ | ⟨e, -, rfl⟩⟩ | ⟨-, hh⟩
  · obtain ⟨hseq, -⟩ := exec_next_frame he
    exact runSound_of_idle hseq
  · exact runSound_of_idle rfl
  · exact hostMove_keeps_runSound hh hr

theorem hostWrite_keeps_resultsBounded (hb : s.resultsBounded) (S : Space) (i : Nat) (w : Word) :
    (hostWrite s S i w).resultsBounded := by
  rcases hostWrite_effect s S i w with ⟨b, k, h⟩ | ⟨-, ⟨-, h⟩ | h | ⟨_, _, _, _, _, h⟩⟩ <;> rw [h]
  · exact hb
  · exact hb
  · obtain ⟨-, hout, hreq⟩ := hb
    exact ⟨Nat.zero_le _, hout, hreq⟩
  · exact hb

theorem inputPasses_resultsBounded (hb : s.resultsBounded) : s.inputPasses.resultsBounded := by
  simpa [State.resultsBounded] using hb

theorem hostMove_keeps_resultsBounded (h : hostMove s = .next t) (hb : s.resultsBounded) : t.resultsBounded := by
  have hpass := inputPasses_resultsBounded hb
  rcases hostMove_next h with ⟨-, rfl⟩ | ⟨rest, -, rfl⟩ | ⟨x, rest, S, i, d, -, -, rfl⟩ |
    ⟨-, -, w, k, rest, b, o, -, rfl⟩
  · exact hb
  · exact ⟨Nat.zero_le _, Nat.zero_le _, Nat.zero_le _⟩
  · exact hostWrite_keeps_resultsBounded (s := { s.inputPasses with inputs := rest }) hpass S i _
  · exact hpass

theorem step_keeps_resultsBounded (hok : s.cfg.ok = true) (h : step s = .next t) (hb : s.resultsBounded) :
    t.resultsBounded := by
  rcases step_next h with ⟨-, w, l, d, -, ⟨i, -, he⟩ | ⟨e, -, rfl⟩⟩ | ⟨-, hh⟩
  · exact exec_keeps_resultsBounded he hok hb
  · exact raiseError_resultsBounded _ hb
  · exact hostMove_keeps_resultsBounded hh hb

/-- Settles O52: each part of the invariant is kept by itself, the memory's and the result registers' bounds under the
constraints of R9, which no step changes. -/
theorem stepKeepsSound : Obligations.StepKeepsSound := by
  rintro s t ⟨hok, hmem, hstatus, hrun, hres⟩ h
  exact ⟨(parametersNeverChange s t h).symm ▸ hok, step_keeps_memSound hok hmem h, step_keeps_statusSound h hstatus,
    step_keeps_runSound h hrun, step_keeps_resultsBounded hok h hres⟩

end Sys2Proof.Machine
end

section
/-! PROOF. Past its checks a command faults where it needs an unwritten element (10_state.md R45,
70_reset_and_hazards.md R195). -/

namespace Sys2Proof.Machine

variable {s : State}

/-- The fault of the host's reads is never a command's. -/
theorem exec_not_hostReadUnwritten (i : Instr) (s : State) : exec i s ≠ .fault .hostReadUnwritten := by
  cases i <;> simp only [exec, execExtract, execWeave, execExtractTxt, execWeaveTxt] <;> (repeat' split) <;> simp

theorem exec_fault_of_not_ready {i : Instr} (h : ¬s.ready i) : exec i s = .fault .blockReadUnwritten := by
  cases he : exec i s with
  | next t => exact absurd (exec_next_iff_ready.1 ⟨t, he⟩) h
  | fault f =>
    cases f with
    | hostReadUnwritten => exact absurd he (exec_not_hostReadUnwritten i s)
    | blockReadUnwritten => rfl
  | refused r => exact absurd he (exec_not_refused i s r)

/-- Settles O28: past its checks a command is ready only where every element it reads is written. -/
theorem unwrittenElementFaultsCommand : Obligations.UnwrittenElementFaultsCommand := by
  intro s hK
  have hrange : ¬s.cfg.carDepth < s.operands.pixels := Nat.not_lt.2 hK
  refine ⟨fun hcar => ⟨exec_fault_of_not_ready ?_, exec_fault_of_not_ready ?_⟩,
    fun hw hh hload => exec_fault_of_not_ready ?_, fun hn hP hload => exec_fault_of_not_ready ?_⟩
  · exact not_or.2 ⟨hrange, hcar⟩
  · exact not_or.2 ⟨hrange, hcar⟩
  · simp only [State.ready, not_or, not_not]
    exact ⟨hrange, hw, hh, hload⟩
  · simp only [State.ready, not_or, Nat.not_lt]
    exact ⟨hK, hn, hP, hload⟩

end Sys2Proof.Machine
end

section
/-! PROOF. Registers while IDLE (10_state.md R22 to R31), and reads of settled elements (R45). -/

namespace Sys2Proof.Machine

variable {s : State}

theorem writeReg_of_readOnly {i : Nat} (hi : 7 ≤ i) (w : Word) : writeReg s i w = s := by
  obtain ⟨n, rfl⟩ := Nat.exists_eq_add_of_le hi
  rw [Nat.add_comm]
  rfl

theorem hostWrite_pastEnd (hb : s.busy = false) {S : Space} {i : Nat} (hi : s.cfg.depth S ≤ i) (w : Word) :
    hostWrite s S i w = s := by
  simp [hostWrite, idleWrite, hb, hi]

theorem hostWrite_reg (hb : s.busy = false) {i : Nat} (hi : i < 16) (w : Word) :
    hostWrite s .reg i w = writeReg s i w := by
  have hend : ¬s.cfg.depth .reg ≤ i := Nat.not_le.2 hi
  simp [hostWrite, idleWrite, hb, hend]

/-- Settles O36: below the end of REG an IDLE write is the register's own, past it nothing. -/
theorem idleRegisterWrites : Obligations.IdleRegisterWrites := by
  intro s w hb
  refine ⟨hostWrite_reg hb (by decide) w, hostWrite_reg hb (by decide) w, hostWrite_reg hb (by decide) w,
    hostWrite_reg hb (by decide) w, hostWrite_reg hb (by decide) w, hostWrite_reg hb (by decide) w, fun i hi => ?_⟩
  by_cases hend : i < 16
  · rw [hostWrite_reg hb hend, writeReg_of_readOnly hi]
  · exact hostWrite_pastEnd hb (S := .reg) (Nat.not_lt.1 hend) w

theorem regWord_reserved {i : Nat} (hi : 10 ≤ i) : s.regWord i = 0 := by
  obtain ⟨n, rfl⟩ := Nat.exists_eq_add_of_le hi
  rw [Nat.add_comm]
  rfl

theorem hostRead_pastEnd {S : Space} {i : Nat} (hi : s.cfg.depth S ≤ i) : hostRead s S i = .next (s.answered 0) := by
  simp [hostRead, hi]

theorem hostRead_seen (hb : s.busy = false) (hold : s.older = []) {S : Space} {i : Nat} (hi : i < s.cfg.depth S) :
    hostRead s S i = answerElement (s.noticed S i) (s.element S i) := by
  simp [hostRead, Nat.not_le.2 hi, hb, hold]

theorem hostRead_unseen (hb : s.busy = false) (hold : s.older ≠ []) {S : Space} {i : Nat} (hi : i < s.cfg.depth S) :
    hostRead s S i = unseenRead s S i := by
  simp [hostRead, Nat.not_le.2 hi, hb, hold]

/-- A read while IDLE of an element that is settled, of an input space or once the host has seen the last command end
(70_reset_and_hazards.md R196), answers what the element holds. -/
theorem hostRead_settled (hb : s.busy = false) {S : Space} {i : Nat} (hi : i < s.cfg.depth S)
    (h : s.older = [] ∨ S = .car ∨ S = .emb ∨ S = .tin) :
    hostRead s S i = answerElement (s.noticed S i) (s.element S i) := by
  by_cases hold : s.older = []
  · exact hostRead_seen hb hold hi
  · rw [hostRead_unseen hb hold hi]
    rcases h with h | rfl | rfl | rfl
    · exact absurd h hold
    all_goals
      rw [noticed_other (by simp)]
      rfl

theorem hostRead_reg_settled (hb : s.busy = false) {i : Nat} (h : s.older = [] ∨ (i ≠ 7 ∧ i ≠ 8)) (hi : i < 16) :
    hostRead s .reg i = .next ((s.noticed .reg i).answered (s.regWord i)) := by
  by_cases hold : s.older = []
  · exact hostRead_seen hb hold hi
  · obtain ⟨h7, h8⟩ := h.resolve_left hold
    rw [hostRead_unseen hb hold hi]
    simp [unseenRead, h7, h8]

theorem hostRead_reg_unseen (hb : s.busy = false) (hold : s.older ≠ []) {i : Nat} (hi : i = 7 ∨ i = 8) :
    hostRead s .reg i = .next (s.choose.answered (Config.busyWord s.fresh)) := by
  have hend : i < 16 := by omega
  rw [hostRead_unseen hb hold hend]
  simp [unseenRead, hi]

theorem noticed_status (hb : s.busy = false) : s.noticed .reg 1 = { s with endUnseen := false, older := [] } := by
  simp [State.noticed, hb]

theorem hostRead_reg_plain (hb : s.busy = false) {i : Nat} (h : s.older = [] ∨ (i ≠ 7 ∧ i ≠ 8)) (h1 : i ≠ 1)
    (hi : i < 16) : hostRead s .reg i = .next (s.answered (s.regWord i)) := by
  rw [hostRead_reg_settled hb h hi, noticed_other (by simpa using h1)]

theorem halfWord_toNat (v : Half) : (halfWord v).toNat = v.toNat :=
  BitVec.toNat_setWidth_of_le (by decide)

/-- Settles O37: STATUS apart, an IDLE register read answers what the register holds, but for REQ_PIX and OUT_LEN before
the end is seen. -/
theorem idleRegisterReads : Obligations.IdleRegisterReads := by
  intro s hb
  have plain : ∀ {i}, i < 7 ∨ 9 ≤ i → i ≠ 1 → i < 16 → hostRead s .reg i = .next (s.answered (s.regWord i)) :=
    fun hi h1 hend => hostRead_reg_plain hb (.inr ⟨by omega, by omega⟩) h1 hend
  have reqOut : s.older = [] → ∀ {i}, i = 7 ∨ i = 8 → hostRead s .reg i = .next (s.answered (s.regWord i)) :=
    fun hold i hi => hostRead_reg_plain hb (.inl hold) (by omega) (by omega)
  have free := fun (hold : s.older ≠ []) {i} => hostRead_reg_unseen (i := i) hb hold
  have status : hostRead s .reg 1 = .next ((s.noticed .reg 1).answered s.statusWord) :=
    hostRead_reg_settled hb (.inr (by decide)) (by decide)
  rw [noticed_status hb] at status
  refine ⟨plain (by decide) (by decide) (by decide), status,
    ⟨halfWord s.carW, halfWord s.carH, halfWord s.embW, halfWord s.embH,
      plain (by decide) (by decide) (by decide), halfWord_toNat _,
      plain (by decide) (by decide) (by decide), halfWord_toNat _,
      plain (by decide) (by decide) (by decide), halfWord_toNat _,
      plain (by decide) (by decide) (by decide), halfWord_toNat _⟩,
    plain (by decide) (by decide) (by decide), fun hold => ⟨reqOut hold (.inl rfl), reqOut hold (.inr rfl)⟩,
    fun hold => ⟨Config.busyWord s.fresh, Config.busyWord s.fresh, free hold (.inl rfl), free hold (.inr rfl)⟩,
    plain (by decide) (by decide) (by decide), fun i hi => ?_⟩
  by_cases hend : i < 16
  · rw [plain (by omega) (by omega) hend, regWord_reserved hi]
    rfl
  · exact hostRead_pastEnd (S := .reg) (Nat.not_lt.1 hend)

/-- Settles O42: a settled read answers the element, and only a read of STATUS shows the host an end. -/
theorem hostReadOfUnwrittenFaults : Obligations.HostReadOfUnwrittenFaults := by
  intro s S i hb hi h
  rw [hostRead_settled hb hi h]
  refine ⟨fun hnone => by rw [hnone]; rfl, fun w hw => ?_⟩
  rw [hw]
  by_cases hstatus : (S, i) = (.reg, 1)
  · obtain ⟨rfl, rfl⟩ := Prod.mk.inj hstatus
    have hold : s.older = [] := by simpa using h
    simp [answerElement, State.answered, noticed_status hb, hold]
  · rw [noticed_other hstatus, if_neg hstatus]
    rfl

end Sys2Proof.Machine
end

section
/-! PROOF. The STATUS word (10_state.md R26, 60_exceptions.md R161). -/

namespace Sys2Proof.Machine

/-- The STATUS word, bit by bit (10_state.md R26). -/
theorem statusWord_getLsbD (s : State) (k : Nat) :
    s.statusWord.getLsbD k =
      if k = 0 then s.busy else if k = 1 then s.done else if k = 2 then s.ok else if k = 3 then false
      else if k < 8 then s.err.code.getLsbD (k - 4) else if k = 8 then s.sentFound else if k = 9 then s.wbusy
      else false := by
  unfold State.statusWord
  repeat rw [BitVec.getLsbD_append]
  match k with
  | 0 | 1 | 2 | 3 | 4 | 5 | 6 | 7 | 8 | 9 => simp
  | n + 10 => simp

theorem statusWord_err (s : State) : s.statusWord.extractLsb' 4 4 = s.err.code := by
  apply BitVec.eq_of_getLsbD_eq
  intro k hk
  rw [BitVec.getLsbD_extractLsb', statusWord_getLsbD]
  have h1 : 4 + k ≠ 1 := by omega
  have h2 : 4 + k ≠ 2 := by omega
  have h3 : 4 + k ≠ 3 := by omega
  have h8 : 4 + k < 8 := by omega
  simp [hk, h1, h2, h3, h8]

/-- Settles O38: the flags and the zeros bit by bit, and ERR by the code of each error. -/
theorem statusWordLayout : Obligations.StatusWordLayout := by
  intro s
  refine ⟨statusWord_getLsbD s 0, statusWord_getLsbD s 1, statusWord_getLsbD s 2, statusWord_getLsbD s 3,
    statusWord_getLsbD s 8, statusWord_getLsbD s 9, fun k hk => ?_, ?_⟩
  · obtain ⟨n, rfl⟩ := Nat.exists_eq_add_of_le' hk
    exact statusWord_getLsbD s (n + 10)
  · rw [statusWord_err]
    cases s.err <;> rfl

end Sys2Proof.Machine
end

section
/-! PROOF. A buffer element while IDLE, written and read back (10_state.md R41 to R44, 20_memory.md R65, R68). -/

namespace Sys2Proof.Machine

variable {s : State}

theorem pixWord_pixelOfWord (w : Word) : pixWord (pixelOfWord w) = w &&& 0x00FFFFFF := by
  apply BitVec.eq_of_getLsbD_eq
  intro i hi
  unfold pixWord pixelOfWord
  repeat rw [BitVec.getLsbD_append]
  interval_cases i <;> simp

theorem byteWord_byteOfWord (w : Word) : byteWord (byteOfWord w) = w &&& 0x000000FF := by
  apply BitVec.eq_of_getLsbD_eq
  intro i hi
  unfold byteWord byteOfWord
  interval_cases i <;> simp

/-- What an element of `S` reads as after a write of `w`: the word with the element's reserved bits 0 (10_state.md R41 to
R44). -/
def storedWord (S : Space) (w : Word) : Word :=
  match S with
  | .car | .orgb => w &&& 0x00FFFFFF
  | .emb | .oidx | .tout => w &&& 0x000000FF
  | _ => w

theorem elementIn_storeWord_self (m : Memory) {S : Space} (hS : S ≠ .reg) (i : Nat) (w : Word) :
    s.elementIn (m.storeWord S i w) S i = some (storedWord S w) := by
  cases S <;>
    simp [State.elementIn, State.element, Memory.storeWord, storedWord, pixWord_pixelOfWord, byteWord_byteOfWord] at hS ⊢

theorem elementIn_storeWord_other (m : Memory) {S T : Space} {i j : Nat} (h : (T, j) ≠ (S, i)) (w : Word) :
    s.elementIn (m.storeWord S i w) T j = s.elementIn m T j := by
  by_cases hT : T = S
  · subst hT
    have hij : i ≠ j := by simpa [eq_comm] using h
    cases T <;> simp [State.elementIn, State.element, Memory.storeWord, Buffer.read_write_ne, hij]
  · cases S <;> cases T <;> simp [State.elementIn, State.element, Memory.storeWord] at hT ⊢ <;> rfl

/-- A host's store changes no register, so it takes no part in what an element would hold. -/
theorem elementIn_storeWord_state (m : Memory) (S T : Space) (i j : Nat) (w : Word) :
    (s.storeWord S i w).elementIn m T j = s.elementIn m T j := by
  cases T <;> rfl

theorem hostWrite_buffer (hb : s.busy = false) {S : Space} (hS : S ≠ .reg) {i : Nat} (hi : i < s.cfg.depth S)
    (w : Word) : hostWrite s S i w = s.storeWord S i w := by
  simp [hostWrite, idleWrite, hb, hS, Nat.not_le.2 hi]

/-- An IDLE read of a buffer element that holds `a` in the buffers as they stand, and in each older one that a read may
still show, answers `a`. -/
theorem hostRead_agreed (hb : s.busy = false) {S : Space} (hS : S ≠ .reg) {i : Nat} (hi : i < s.cfg.depth S) {a : Word}
    (ha : ∀ m ∈ s.mem :: s.older, s.elementIn m S i = some a) :
    ∃ f, hostRead s S i = .next { s with answer := a, fresh := f } := by
  have hnow : s.element S i = some a := ha s.mem List.mem_cons_self
  have settled : s.older = [] ∨ S = .car ∨ S = .emb ∨ S = .tin →
      ∃ f, hostRead s S i = .next { s with answer := a, fresh := f } := fun h => by
    rw [hostRead_settled hb hi h, noticed_other (by simp [hS]), hnow]
    exact ⟨s.fresh, rfl⟩
  by_cases hold : s.older = []
  · exact settled (.inl hold)
  by_cases hin : S = .car ∨ S = .emb ∨ S = .tin
  · exact settled (.inr hin)
  have hunsettled : unseenRead s S i = unsettledRead s S i := by
    cases S with
    | reg => exact absurd rfl hS
    | car | emb | tin => simp at hin
    | orgb | oidx | tout => rfl
  obtain ⟨m, hm, hread⟩ := unsettledRead_eq s S i
  rw [hostRead_unseen hb hold hi, hunsettled, hread, ha m hm]
  exact ⟨s.fresh + 1, rfl⟩

/-- Settles O39: the store reaches the buffers and every older one alike, so a read answers it whichever it takes. -/
theorem writeThenReadElement : Obligations.WriteThenReadElement := by
  intro s S i w hb hS hi
  rw [hostWrite_buffer hb hS hi]
  refine ⟨?_, ?_, fun T j hTj => ⟨?_, ?_⟩⟩
  · have hstored : ∀ m ∈ (s.storeWord S i w).mem :: (s.storeWord S i w).older,
        (s.storeWord S i w).elementIn m S i = some (storedWord S w) := by
      change ∀ m ∈ (s.mem :: s.older).map fun m => m.storeWord S i w, _
      exact List.forall_mem_map.2 fun m _ => elementIn_storeWord_self m hS i w
    obtain ⟨f, hread⟩ := hostRead_agreed (s := s.storeWord S i w) hb hS hi hstored
    refine ⟨storedWord S w, f, hread, ?_⟩
    cases S <;> rfl
  · cases S <;> simp [Memory.storeWord, pixelOfWord, byteOfWord]
  · rw [← elementIn_self, elementIn_storeWord_state]
    exact elementIn_storeWord_other s.mem hTj w
  · rw [storeWord_older, List.map_map]
    exact List.map_congr_left fun m _ => elementIn_storeWord_other m hTj w

end Sys2Proof.Machine
end

section
/-! PROOF. A command word on a bus of bytes (20_memory.md R63, 30_encoding.md R82). -/

namespace Sys2Proof

/-- The lanes of a word, put together, are the word (20_memory.md R63). -/
theorem wordOfLanes_byteLane (w : Word) :
    wordOfLanes (byteLane w 0) (byteLane w 1) (byteLane w 2) (byteLane w 3) = w := by
  apply BitVec.eq_of_getLsbD_eq
  intro i hi
  unfold wordOfLanes byteLane
  repeat rw [BitVec.getLsbD_append]
  interval_cases i <;> simp

theorem decodeBytes_lanesOfWord (w : Word) (rest : List Byte) :
    decodeBytes (lanesOfWord w ++ rest) = (decode w).map fun i => (i, rest) := by
  simp only [lanesOfWord, List.cons_append, List.nil_append, decodeBytes, wordOfLanes_byteLane]
  cases decode w <;> rfl

theorem decode_encode (i : Instr) : decode (encode i) = .ok i := by cases i <;> rfl

/-- Settles O3: the lanes give the word back, so bytes decode as their word, and an instruction's word to itself. -/
theorem byteLanesDecodeAsTheirWord : Obligations.ByteLanesDecodeAsTheirWord := by
  refine ⟨decodeBytes_lanesOfWord, wordOfLanes_byteLane, fun i rest _ => ?_⟩
  rw [encodeBytes, decodeBytes_lanesOfWord, decode_encode]
  rfl

/-- The opcode table's numbering of bits is the word's own, so what it reads is what the decoder reads from the word. -/
theorem decode_tableWord {nbits w : Nat} {i : Instr} (h : decodeTableWord nbits w = some i) :
    decode (tableWord nbits w) = .ok i := by
  have hlanes := decodeBytes_lanesOfWord (tableWord nbits w) []
  rw [List.append_nil] at hlanes
  rw [decodeTableWord, hlanes] at h
  cases hd : decode (tableWord nbits w) with
  | ok j => simpa [hd, Except.map] using h
  | error e => simp [hd, Except.map] at h

end Sys2Proof
end

section
/-! PROOF. What each command leaves as it was, and on what its result depends (20_memory.md R74, R75). -/

namespace Sys2Proof.Machine

variable {s t u : State}

/-- A store of a list leaves every element from the list's length on. -/
theorem Buffer.read_store_above {α : Type} (b : Buffer α) {vs : List α} {n : Nat} (h : vs.length ≤ n) :
    Buffer.read (Buffer.store b vs) n = Buffer.read b n := by
  rw [Buffer.read_store, if_neg (Nat.not_lt.2 h)]

/-- A store of one list into two buffers: each element reads the same in both, or is untouched in both. -/
theorem Buffer.read_store_agrees {α : Type} (b c : Buffer α) (vs : List α) (n : Nat) :
    Buffer.read (Buffer.store b vs) n = Buffer.read (Buffer.store c vs) n ∨
      (Buffer.read (Buffer.store b vs) n = Buffer.read b n ∧ Buffer.read (Buffer.store c vs) n = Buffer.read c n) := by
  by_cases h : n < vs.length
  · exact .inl (by simp only [Buffer.read_store, if_pos h])
  · exact .inr ⟨Buffer.read_store_above b (Nat.not_lt.1 h), Buffer.read_store_above c (Nat.not_lt.1 h)⟩

theorem wovenText_length (s : State) (text : List Word) (px : List Pixel) : (s.wovenText text px).length = px.length := by
  simp [State.wovenText, wovenRaster]

/-- Settles O29: an error writes flags alone, a success stores K elements into the output besides. -/
theorem imageCommandsFrame : Obligations.ImageCommandsFrame := by
  intro s t
  refine ⟨fun h => ?_, fun h => ?_⟩
  · obtain ⟨-, -, -, hsame, hin, hans, hfresh, -, hold, hundrawn⟩ := exec_next_frame h
    rcases execExtract_next.1 h with ⟨-, rfl⟩ | ⟨-, px, hpx, rfl⟩
    · exact ⟨hsame, ⟨hin, hans, hold, rfl, hundrawn, hfresh⟩, rfl, rfl, rfl, rfl, fun n _ => rfl⟩
    · obtain ⟨hlen, -⟩ := Buffer.load_eq_some.1 hpx
      refine ⟨hsame, ⟨hin, hans, hold, rfl, hundrawn, hfresh⟩, rfl, rfl, rfl, rfl, fun n hn => ?_⟩
      exact Buffer.read_store_above _ (by simpa [hlen] using hn)
  · obtain ⟨-, -, -, hsame, hin, hans, hfresh, -, hold, hundrawn⟩ := exec_next_frame h
    rcases execWeave_next.1 h with ⟨-, rfl⟩ | ⟨-, -, rfl⟩ | ⟨-, -, px, vs, hpx, hvs, rfl⟩
    · exact ⟨hsame, ⟨hin, hans, hold, rfl, hundrawn, hfresh⟩, rfl, rfl, rfl, rfl, fun n _ => rfl⟩
    · exact ⟨hsame, ⟨hin, hans, hold, rfl, hundrawn, hfresh⟩, rfl, rfl, rfl, rfl, fun n _ => rfl⟩
    · obtain ⟨hlen, -⟩ := Buffer.load_eq_some.1 hpx
      obtain ⟨hlen', -⟩ := Buffer.load_eq_some.1 hvs
      refine ⟨hsame, ⟨hin, hans, hold, rfl, hundrawn, hfresh⟩, rfl, rfl, rfl, rfl, fun n hn => ?_⟩
      exact Buffer.read_store_above _ (by simpa [hlen, hlen'] using hn)

/-- Settles O30: an error writes flags, and of WEAVE_TXT REQ_PIX, alone; a success stores the text, or K pixels, besides. -/
theorem textCommandsFrame : Obligations.TextCommandsFrame := by
  intro s t
  refine ⟨fun h => ?_, fun h => ?_⟩
  · obtain ⟨-, -, -, hsame, hin, hans, hfresh, -, hold, hundrawn⟩ := exec_next_frame h
    rcases execExtractTxt_next.1 h with ⟨-, rfl⟩ | ⟨-, px, hpx, rfl⟩
    · exact ⟨hsame, ⟨hin, hans, hold, rfl, hundrawn, hfresh⟩, rfl, rfl, rfl, fun _ => ⟨rfl, rfl⟩, fun _ _ j _ => rfl⟩
    · refine ⟨hsame, ⟨hin, hans, hold, rfl, hundrawn, hfresh⟩, rfl, rfl, rfl, nofun, fun px' hpx' j hj => ?_⟩
      obtain rfl := Option.some.inj (hpx.symm.trans hpx')
      exact Buffer.read_store_above _ hj
  · obtain ⟨-, -, -, hsame, hin, hans, hfresh, -, hold, hundrawn⟩ := exec_next_frame h
    rcases execWeaveTxt_next.1 h with ⟨-, rfl⟩ | ⟨-, -, rfl⟩ | ⟨-, -, text, px, -, hpx, rfl⟩
    · exact ⟨hsame, hin, hans, hold, hundrawn, hfresh, rfl, rfl, rfl, fun _ => rfl, fun n _ => rfl⟩
    · exact ⟨hsame, hin, hans, hold, hundrawn, hfresh, rfl, rfl, rfl, fun _ => rfl, fun n _ => rfl⟩
    · obtain ⟨hlen, -⟩ := Buffer.load_eq_some.1 hpx
      refine ⟨hsame, hin, hans, hold, hundrawn, hfresh, rfl, rfl, rfl, nofun, fun n hn => ?_⟩
      exact Buffer.read_store_above _ (by simpa [wovenText_length, hlen] using hn)

end Sys2Proof.Machine
end

section
/-! PROOF. On what a command's result depends (20_memory.md R75, 00_scope.md R18). -/

namespace Sys2Proof.Machine

variable {s t u : State}

/-- Commands from `s` to `t` and from `u` to `v` give one result: the same flags, PROGRESS and number of draws, and
REQ_PIX, OUT_LEN and every element of an output buffer the same or untouched in both (20_memory.md R75). -/
def State.EndsAlike (s u t v : State) : Prop :=
  v.ok = t.ok ∧ v.err = t.err ∧ v.sentFound = t.sentFound ∧ v.progress = t.progress ∧ v.draws = t.draws ∧
    (v.reqPix = t.reqPix ∨ (v.reqPix = u.reqPix ∧ t.reqPix = s.reqPix)) ∧
    (v.outLen = t.outLen ∨ (v.outLen = u.outLen ∧ t.outLen = s.outLen)) ∧
    (∀ n, Buffer.read v.mem.oidx n = Buffer.read t.mem.oidx n ∨
      (Buffer.read v.mem.oidx n = Buffer.read u.mem.oidx n ∧ Buffer.read t.mem.oidx n = Buffer.read s.mem.oidx n)) ∧
    (∀ n, Buffer.read v.mem.orgb n = Buffer.read t.mem.orgb n ∨
      (Buffer.read v.mem.orgb n = Buffer.read u.mem.orgb n ∧ Buffer.read t.mem.orgb n = Buffer.read s.mem.orgb n)) ∧
    (∀ n, Buffer.read v.mem.tout n = Buffer.read t.mem.tout n ∨
      (Buffer.read v.mem.tout n = Buffer.read u.mem.tout n ∧ Buffer.read t.mem.tout n = Buffer.read s.mem.tout n))

theorem raiseError_endsAlike (hdraws : u.draws = s.draws) (code : ErrCode) :
    s.EndsAlike u (s.raiseError code) (u.raiseError code) :=
  ⟨rfl, rfl, rfl, rfl, hdraws, .inr ⟨rfl, rfl⟩, .inr ⟨rfl, rfl⟩, fun _ => .inr ⟨rfl, rfl⟩, fun _ => .inr ⟨rfl, rfl⟩,
    fun _ => .inr ⟨rfl, rfl⟩⟩

section SameOperands

variable (hcfg : u.cfg = s.cfg) (hops : u.operands = s.operands) (hcar : u.mem.car = s.mem.car)
  (hdraws : u.draws = s.draws)
include hcfg hops hcar hdraws

theorem execExtract_endsAlike (h : execExtract s = .next t) : ∃ v, execExtract u = .next v ∧ s.EndsAlike u t v := by
  have hrange : u.carrierTooLarge = s.carrierTooLarge := by simp only [State.carrierTooLarge, hcfg, hops]
  rcases execExtract_next.1 h with ⟨hbig, rfl⟩ | ⟨hfit, px, hpx, rfl⟩
  · exact ⟨_, execExtract_next.2 (.inl ⟨hrange.trans hbig, rfl⟩), raiseError_endsAlike hdraws _⟩
  · rw [← hcar, ← hops] at hpx
    refine ⟨_, execExtract_next.2 (.inr ⟨hrange.trans hfit, px, hpx, rfl⟩), ?_⟩
    exact ⟨rfl, rfl, rfl, by simp [hops], hdraws, .inr ⟨rfl, rfl⟩, .inr ⟨rfl, rfl⟩, Buffer.read_store_agrees _ _ _,
      fun _ => .inr ⟨rfl, rfl⟩, fun _ => .inr ⟨rfl, rfl⟩⟩

theorem execWeave_endsAlike (hemb : u.mem.emb = s.mem.emb) (h : execWeave s = .next t) :
    ∃ v, execWeave u = .next v ∧ s.EndsAlike u t v := by
  have hrange : u.carrierTooLarge = s.carrierTooLarge := by simp only [State.carrierTooLarge, hcfg, hops]
  have hsizes : u.sizesDiffer = s.sizesDiffer := by simp only [State.sizesDiffer, hops]
  rcases execWeave_next.1 h with ⟨hbig, rfl⟩ | ⟨hfit, hdiff, rfl⟩ | ⟨hfit, hsame, px, vs, hpx, hvs, rfl⟩
  · exact ⟨_, execWeave_next.2 (.inl ⟨hrange.trans hbig, rfl⟩), raiseError_endsAlike hdraws _⟩
  · exact ⟨_, execWeave_next.2 (.inr (.inl ⟨hrange.trans hfit, hsizes.trans hdiff, rfl⟩)),
      raiseError_endsAlike hdraws _⟩
  · rw [← hcar, ← hops] at hpx
    rw [← hemb, ← hops] at hvs
    refine ⟨_, execWeave_next.2 (.inr (.inr ⟨hrange.trans hfit, hsizes.trans hsame, px, vs, hpx, hvs, rfl⟩)), ?_⟩
    exact ⟨rfl, rfl, rfl, by simp [hops], hdraws, .inr ⟨rfl, rfl⟩, .inr ⟨rfl, rfl⟩, fun _ => .inr ⟨rfl, rfl⟩,
      Buffer.read_store_agrees _ _ _, fun _ => .inr ⟨rfl, rfl⟩⟩

theorem execExtractTxt_endsAlike (h : execExtractTxt s = .next t) :
    ∃ v, execExtractTxt u = .next v ∧ s.EndsAlike u t v := by
  have hrange : u.carrierTooLarge = s.carrierTooLarge := by simp only [State.carrierTooLarge, hcfg, hops]
  rcases execExtractTxt_next.1 h with ⟨hbig, rfl⟩ | ⟨hfit, px, hpx, rfl⟩
  · exact ⟨_, execExtractTxt_next.2 (.inl ⟨hrange.trans hbig, rfl⟩), raiseError_endsAlike hdraws _⟩
  · rw [← hcar, ← hops] at hpx
    refine ⟨_, execExtractTxt_next.2 (.inr ⟨hrange.trans hfit, px, hpx, rfl⟩), ?_⟩
    rw [hcfg]
    exact ⟨rfl, rfl, rfl, by simp [hops], hdraws, .inr ⟨rfl, rfl⟩, .inl rfl, fun _ => .inr ⟨rfl, rfl⟩,
      fun _ => .inr ⟨rfl, rfl⟩, Buffer.read_store_agrees _ _ _⟩

theorem execWeaveTxt_endsAlike (htin : u.mem.tin = s.mem.tin) (h : execWeaveTxt s = .next t) :
    ∃ v, execWeaveTxt u = .next v ∧ s.EndsAlike u t v := by
  have hrange : (u.carrierTooLarge || u.textTooLong) = (s.carrierTooLarge || s.textTooLong) := by
    simp only [State.carrierTooLarge, State.textTooLong, hcfg, hops]
  have hcap : u.overCapacity = s.overCapacity := by simp only [State.overCapacity, hops]
  have hbudget : u.withBudget.reqPix = s.withBudget.reqPix := by simp only [withBudget_reqPix, hops]
  rcases execWeaveTxt_next.1 h with ⟨hbig, rfl⟩ | ⟨hfit, hover, rfl⟩ | ⟨hfit, hunder, text, px, htext, hpx, rfl⟩
  · exact ⟨_, execWeaveTxt_next.2 (.inl ⟨hrange.trans hbig, rfl⟩), raiseError_endsAlike hdraws _⟩
  · refine ⟨_, execWeaveTxt_next.2 (.inr (.inl ⟨hrange.trans hfit, hcap.trans hover, rfl⟩)), ?_⟩
    exact ⟨rfl, rfl, rfl, rfl, hdraws, .inl hbudget, .inr ⟨rfl, rfl⟩, fun _ => .inr ⟨rfl, rfl⟩,
      fun _ => .inr ⟨rfl, rfl⟩, fun _ => .inr ⟨rfl, rfl⟩⟩
  · have hwoven : u.wovenText text px = s.wovenText text px := by simp only [State.wovenText, hdraws, hops]
    rw [← htin, ← hops] at htext
    rw [← hcar, ← hops] at hpx
    refine ⟨_, execWeaveTxt_next.2 (.inr (.inr ⟨hrange.trans hfit, hcap.trans hunder, text, px, htext, hpx, rfl⟩)), ?_⟩
    rw [hwoven]
    exact ⟨rfl, rfl, rfl, by simp [hops], by simp [hops, hdraws], .inl hbudget, .inr ⟨rfl, rfl⟩,
      fun _ => .inr ⟨rfl, rfl⟩, Buffer.read_store_agrees _ _ _, fun _ => .inr ⟨rfl, rfl⟩⟩

end SameOperands

/-- Settles O31: the checks and the loads see the operands, the parameters and the inputs alone, so a command takes the
same case in both states, and a success stores one list in both. -/
theorem commandsReadNoOutputBuffer : Obligations.CommandsReadNoOutputBuffer := by
  intro s u t i hcfg hops hcar hemb htin hdraws h
  cases i with
  | extract => exact execExtract_endsAlike hcfg hops hcar hdraws h
  | weave => exact execWeave_endsAlike hcfg hops hcar hdraws hemb h
  | extractTxt => exact execExtractTxt_endsAlike hcfg hops hcar hdraws h
  | weaveTxt => exact execWeaveTxt_endsAlike hcfg hops hcar hdraws htin h

end Sys2Proof.Machine
end

section
/-! PROOF. Host transactions: what a read keeps, writes while BUSY, accesses past a space's end and by byte address
(20_memory.md R61, R62, R65, R66). -/

namespace Sys2Proof.Machine

variable {s t : State}

/-- Settles O41: a read changes what the host has received and seen, and the count of free choices alone. -/
theorem readsHaveNoSideEffect : Obligations.ReadsHaveNoSideEffect := by
  intro s t S i h
  obtain ⟨w, k, rfl⟩ := hostRead_next h
  exact ⟨rfl, (noticed_older_cases s S i).imp_right And.right⟩

/-- Settles O35: a write while BUSY is STATUS's own, a stray one past the end, or lost with WBUSY set. -/
theorem busyWritesAreLost : Obligations.BusyWritesAreLost := by
  intro s S i w hb
  have busy : ∀ S i, hostWrite s S i w = busyWrite s S i w := fun S i => by simp [hostWrite, hb]
  refine ⟨fun hi hstatus => ?_, busy .reg 1, fun hi => ?_⟩
  · have hstatus' : ¬(S = .reg ∧ i = 1) := by simpa using hstatus
    rw [busy, busyWrite, if_neg hstatus', if_neg (Nat.not_le.2 hi)]
    rfl
  · have hstatus : ¬(S = .reg ∧ i = 1) := by
      rintro ⟨rfl, rfl⟩
      exact absurd hi (by decide : ¬16 ≤ 1)
    rw [busy, busyWrite, if_neg hstatus, if_pos hi, strayWrite]
    split
    · exact ⟨true, rfl, fun _ => rfl⟩
    · exact ⟨s.wbusy, rfl, id⟩

/-- Settles O40: the depths are the parameters', and past the end a read answers 0 before BUSY is looked at. -/
theorem pastTheEnd : Obligations.PastTheEnd :=
  ⟨fun _ => ⟨rfl, rfl, rfl, rfl, rfl, rfl, rfl⟩,
    fun _ _ _ w hi => ⟨hostRead_pastEnd hi, fun hb => hostWrite_pastEnd hb hi w⟩⟩

/-! ## Byte addresses -/

theorem Space.mem_all (S : Space) : S ∈ Space.all := by cases S <;> decide

/-- R61's constraints: the bases are aligned, and the byte ranges of two different spaces share no address. -/
theorem Params.ok_map {p : Params} (h : p.ok = true) (S : Space) :
    p.base S % 4 = 0 ∧ ∀ T, S = T ∨ p.depth S = 0 ∨ p.depth T = 0 ∨ p.base S + 4 * p.depth S ≤ p.base T ∨
      p.base T + 4 * p.depth T ≤ p.base S := by
  simp only [Params.ok, Params.mapOk, Params.apart, Bool.and_eq_true, List.all_eq_true, Bool.or_eq_true, beq_iff_eq,
    decide_eq_true_eq, or_assoc] at h
  obtain ⟨-, hmap⟩ := h
  obtain ⟨halign, hapart⟩ := hmap S (Space.mem_all S)
  exact ⟨halign, fun T => hapart T (Space.mem_all T)⟩

theorem spaceAt_elementAddress {p : Params} (h : p.ok = true) {S : Space} {i : Nat} (hi : i < p.depth S) :
    spaceAt p (elementAddress p S i) = some S := by
  unfold spaceAt elementAddress
  cases hfind : Space.all.find? fun T =>
      decide (p.base T ≤ p.base S + 4 * i) && decide (p.base S + 4 * i < p.base T + 4 * p.depth T) with
  | none =>
    have := List.find?_eq_none.1 hfind S (Space.mem_all S)
    simp only [Bool.and_eq_true, decide_eq_true_eq] at this
    omega
  | some T =>
    have hin := List.find?_some hfind
    simp only [Bool.and_eq_true, decide_eq_true_eq] at hin
    obtain ⟨-, hapart⟩ := Params.ok_map h S
    rcases hapart T with rfl | hclash
    · rfl
    · omega

/-- Settles O44: the address is aligned and lies in S alone, so the access is the transaction on element i. -/
theorem busAccessIsItsTransaction : Obligations.BusAccessIsItsTransaction := by
  intro s S i data hok hi
  obtain ⟨halign, -⟩ := Params.ok_map hok S
  have haligned : (s.cfg.base S + 4 * i) % 4 = 0 := by omega
  have hindex : (s.cfg.base S + 4 * i - s.cfg.base S) / 4 = i := by omega
  have hspace : spaceAt s.cfg (s.cfg.base S + 4 * i) = some S := spaceAt_elementAddress hok hi
  simp only [busInput, haligned, hspace, hindex, ne_eq, not_true_eq_false, if_false]
  cases data <;> rfl

/-- A transaction that overlaps reset outranks a due command, as reset does, and the host's turn refuses it. -/
theorem step_txnDuringReset {x : Txn} {rest : List Input} (h : s.inputs = .txnDuringReset x :: rest) :
    step s = .refused .overlapsReset := by
  have hstays : s.sequencerMoves = false := by
    refine Bool.eq_false_iff.2 fun hmoves => ?_
    obtain ⟨-, -, -, -, -, hnext⟩ := sequencerMoves_iff.1 hmoves
    simp [State.resetNext, h] at hnext
  simp [step, nextMove, hstays, hostMove, h]

/-- Settles O45: width, then alignment, then the space are looked at, each with a refusal of its own. -/
theorem unsupportedBusAccessRefused : Obligations.UnsupportedBusAccessRefused := by
  refine ⟨fun s addr bytes data => ⟨fun hwidth => ?_, fun halign => ?_, fun halign houtside => ?_⟩,
    fun s x rest h => step_txnDuringReset h⟩
  · simp [busInput, hwidth]
  · simp [busInput, halign]
  · have hnone : spaceAt s.cfg addr = none := by
      refine List.find?_eq_none.2 fun S _ => ?_
      have := houtside S
      simp only [Bool.and_eq_true, decide_eq_true_eq]
      omega
    simp [busInput, halign, hnone]

end Sys2Proof.Machine
end

section
/-! PROOF. What a step is, and what it leaves a running command (20_memory.md R66, R68, R69, 30_encoding.md R85). -/

namespace Sys2Proof.Machine

variable {s t u : State}

/-- A running command's work: the buffers, the operands, the registers it reads or writes, the draws, and what a read may
still show, are in `t` what they are in `s` (20_memory.md R66, R68). -/
def State.sameWork (s t : State) : Prop :=
  t.mem = s.mem ∧ t.operands = s.operands ∧ t.cfg = s.cfg ∧ t.cmd = s.cmd ∧ t.carW = s.carW ∧ t.carH = s.carH ∧
    t.embW = s.embW ∧ t.embH = s.embH ∧ t.txtLen = s.txtLen ∧ t.reqPix = s.reqPix ∧ t.outLen = s.outLen ∧
    t.draws = s.draws ∧ t.undrawn = s.undrawn ∧ t.older = s.older

theorem inputPasses_sameWork (s : State) : s.sameWork s.inputPasses :=
  ⟨by simp, operands_inputPasses s, by simp, by simp, by simp, by simp, by simp, by simp, by simp, by simp, by simp,
    by simp, by simp, by simp⟩

/-- Settles O54: a command that still runs was not ended, and the host's turn while BUSY writes no more than WBUSY. -/
theorem runningCommandSeesFrozenInputs : Obligations.RunningCommandSeesFrozenInputs := by
  intro s t hb h hb'
  have hpass := inputPasses_sameWork s
  rcases step_next h with ⟨-, w, l, d, -, ⟨i, -, he⟩ | ⟨e, -, rfl⟩⟩ | ⟨-, hh⟩
  · obtain ⟨hidle, -⟩ := exec_next_frame he
    simp [busy_idle hidle] at hb'
  · exact absurd hb' Bool.false_ne_true
  rcases hostMove_next hh with ⟨-, rfl⟩ | ⟨rest, -, rfl⟩ | ⟨x, rest, S, i, d, -, -, rfl⟩ |
    ⟨-, -, w, k, rest, b, o, ho, rfl⟩
  · exact ⟨rfl, rfl, rfl, rfl, rfl, rfl, rfl, rfl, rfl, rfl, rfl, rfl, rfl, rfl⟩
  · exact absurd hb' Bool.false_ne_true
  · rcases hostWrite_cases { s.inputPasses with inputs := rest } S i (s.datum d) with ⟨-, b, k, hlost⟩ | ⟨hidle, -⟩
    · rw [hlost]
      exact hpass
    · exact absurd (((busy_inputPasses s).trans hb).symm.trans hidle) (by decide)
  · have hkept : o = s.older := ho.resolve_right fun ⟨hidle, _⟩ => by simp [hb] at hidle
    obtain rfl := hkept.trans (inputPasses_older s).symm
    exact hpass

/-! ## Who moves -/

theorem step_sequencer {w : Word} {l : Latched} {d : Nat} {i : Instr} (hrun : s.seq = .run w l d)
    (hdec : decode w = .ok i) (hdue : d = 0 ∨ s.inputs = []) (hreset : s.resetNext = false) : step s = exec i s := by
  have hmoves : s.sequencerMoves = true := sequencerMoves_iff.2 ⟨w, l, d, hrun, hdue, hreset⟩
  rw [step, nextMove, if_pos hmoves, commandStep_ok hrun hdec]

/-- What `withFetchWord` makes has no reset next: it takes one that would come first away (log 11). -/
theorem holding_resetNext (s : State) (w : Word) : (s.holding w).resetNext = false := by
  unfold State.holding State.resetNext
  induction s.inputs with
  | nil => rfl
  | cons x xs ih =>
    cases x with
    | reset | txnDuringReset => exact ih
    | txn | bus | wait => rfl

/-- Where the block is IDLE, or its command has inputs to pass, a step with an input left is the host's turn. -/
theorem step_host (hne : s.inputs ≠ []) (h : s.seq = .idle ∨ ∃ w l d, s.seq = .run w l (d + 1)) :
    step s = hostMove s := by
  have hstays : s.sequencerMoves = false := by
    refine Bool.eq_false_iff.2 fun hmoves => ?_
    obtain ⟨w, l, d, hrun, hdue, -⟩ := sequencerMoves_iff.1 hmoves
    rcases h with h | ⟨w', l', d', h⟩
    · simp [h] at hrun
    · simp only [h, Sequencer.run.injEq] at hrun
      have := hdue.resolve_right hne
      omega
  simp [step, nextMove, hstays]

/-- The two cases in which the host takes its next input, in one: the state with the input taken and the count lowered. -/
theorem inputPasses_taken {rest : List Input}
    (h : (s.seq = .idle ∧ u = { s with inputs := rest }) ∨
      ∃ w l d, s.seq = .run w l (d + 1) ∧ u = { s with seq := .run w l d, inputs := rest }) :
    u = { s.inputPasses with inputs := rest } := by
  rcases h with ⟨hseq, rfl⟩ | ⟨w, l, d, hseq, rfl⟩ <;> simp [State.inputPasses, hseq]

theorem statusWord_inputPasses (s : State) : s.inputPasses.statusWord = s.statusWord := by
  simp [State.statusWord, busy_inputPasses]

/-- A poll of `wait` answers STATUS, and stays while BUSY (30_encoding.md R87). -/
theorem pollStatus_inputPasses {rest : List Input} (hin : s.inputs = .wait :: rest) :
    pollStatus s.inputPasses rest =
      if s.busy then { s.inputPasses with answer := s.statusWord, inputs := .wait :: rest }
      else { s.inputPasses with answer := s.statusWord, endUnseen := false, older := [], inputs := rest } := by
  unfold pollStatus
  rw [busy_inputPasses, statusWord_inputPasses]
  cases hb : s.busy with
  | true =>
    rw [if_pos rfl, if_pos rfl, ← hin, ← inputPasses_inputs s]
    rfl
  | false => simp [State.answered, noticed_status ((busy_inputPasses s).trans hb)]

/-- Settles O47: a due command is exec's, and the host's turn is its next input, kind by kind. -/
theorem stepRunsDecodedCommand : Obligations.StepRunsDecodedCommand := by
  refine ⟨fun s w l d i => step_sequencer, fun s nbits w i h => ?_, fun s u x rest hin hu => ?_⟩
  · exact step_sequencer rfl (decode_tableWord h) (.inl rfl) (holding_resetNext s _)
  · have hmove : step s = hostMove s :=
      step_host (by simp [hin]) (hu.imp And.left fun ⟨w, l, d, hseq, _⟩ => ⟨w, l, d, hseq⟩)
    obtain rfl := inputPasses_taken hu
    rw [hmove]
    match x with
    | .txn (.write S i v) => cases v <;> simp [hostMove, hin, transact, State.datum]
    | .txn (.read S i) => simp [hostMove, hin, transact]
    | .bus a => simp [hostMove, hin]
    | .wait =>
      simp only [hostMove, hin]
      exact congrArg Host.Outcome.next (pollStatus_inputPasses hin)
    | .reset => simp [hostMove, hin]
    | .txnDuringReset y => simp [hostMove, hin]

end Sys2Proof.Machine
end

section
/-! PROOF. Reads from the CMD write until a read of STATUS has returned BUSY = 0 (20_memory.md R67,
70_reset_and_hazards.md R196). -/

namespace Sys2Proof.Machine

variable {s : State}

theorem hostRead_busy (hb : s.busy = true) {S : Space} {i : Nat} (hi : i < s.cfg.depth S) :
    hostRead s S i = busyRead s S i := by
  simp [hostRead, Nat.not_le.2 hi, hb]

theorem commandStep_not_refused (s : State) (r : Refusal) : commandStep s ≠ .refused r := by
  cases hseq : s.seq with
  | idle => simp [commandStep, hseq]
  | run w l d =>
    cases hdec : decode w with
    | ok i =>
      rw [commandStep_ok hseq hdec]
      exact exec_not_refused i s r
    | error e => simp [commandStep_illegal hseq hdec]

/-! ## Registers while BUSY -/

theorem hostRead_reg_busy (hb : s.busy = true) {i : Nat} (hi : i < 16) :
    hostRead s .reg i = .next (s.choose.answered (busyRegWord s i)) :=
  hostRead_busy (S := .reg) hb hi

theorem busyRegWord_plain {i : Nat} (h7 : i ≠ 7) (h8 : i ≠ 8) (h9 : i ≠ 9) : busyRegWord s i = s.regWord i := by
  simp [busyRegWord, h7, h8, h9]

/-- A register but REQ_PIX, OUT_LEN and PROGRESS reads what it holds while BUSY too; past the end that is 0. -/
theorem hostRead_reg_busy_plain (hb : s.busy = true) {i : Nat} (h : i < 7 ∨ 10 ≤ i) :
    ∃ f, hostRead s .reg i = .next { s with answer := s.regWord i, fresh := f } := by
  by_cases hend : i < 16
  · rw [hostRead_reg_busy hb hend, busyRegWord_plain (by omega) (by omega) (by omega)]
    exact ⟨s.fresh + 1, rfl⟩
  · rw [hostRead_pastEnd (S := .reg) (Nat.not_lt.1 hend), regWord_reserved (by omega)]
    exact ⟨s.fresh, rfl⟩

/-- STATUS of a running command: BUSY, WBUSY and nothing else (10_state.md R26). -/
theorem statusWord_busy (hb : s.busy = true) (hs : s.statusSound) :
    s.statusWord = if s.wbusy then 0x201 else 0x001 := by
  obtain ⟨hrunning, hnone, -⟩ := hs
  obtain ⟨hok, herr, hsent⟩ := hnone (hrunning hb)
  unfold State.statusWord
  rw [hb, hrunning hb, hok, herr, hsent]
  cases s.wbusy <;> rfl

theorem busyProgress_toNat_le (s : State) : (busyRegWord s 9).toNat ≤ s.operands.pixels :=
  (toNat_ofNat_le _).trans (Nat.lt_succ_iff.1 (Nat.mod_lt _ (Nat.succ_pos _)))

/-! ## Elements -/

/-- What a read answers that takes the content `v`, the count of free choices open: the word, or the fault of an unwritten
element. -/
def ReadsAs (s : State) (S : Space) (i : Nat) (v : Option Word) : Prop :=
  match v with
  | some a => ∃ f, hostRead s S i = .next { s with answer := a, fresh := f }
  | none => hostRead s S i = .fault .hostReadUnwritten

theorem readsAs_of_eq {S : Space} {i : Nat} {v : Option Word} (k : Nat)
    (h : hostRead s S i = answerElement { s with fresh := k } v) : ReadsAs s S i v := by
  cases v with
  | none => exact h
  | some a => exact ⟨k, h⟩

theorem hostRead_input_busy (hb : s.busy = true) {S : Space} {i : Nat} (hS : S = .car ∨ S = .emb ∨ S = .tin)
    (hi : i < s.cfg.depth S) : ReadsAs s S i (s.element S i) := by
  refine readsAs_of_eq s.fresh ?_
  rw [hostRead_busy hb hi]
  rcases hS with rfl | rfl | rfl <;> rfl

theorem hostRead_output_busy (hb : s.busy = true) {S : Space} {i : Nat} (hS : S = .orgb ∨ S = .oidx ∨ S = .tout)
    (hi : i < s.cfg.depth S) :
    (∃ f, commandStep s = .fault f ∧ hostRead s S i = .fault f) ∨
    ∃ v : Option Word,
      ((∃ m ∈ s.mem :: s.older, s.elementIn m S i = v) ∨ ∃ t, commandStep s = .next t ∧ t.element S i = v) ∧
      ReadsAs s S i v := by
  have hraced : hostRead s S i = racedRead s S i := by
    rw [hostRead_busy hb hi]
    rcases hS with rfl | rfl | rfl <;> rfl
  by_cases hnew : Config.raceTakesNew s.fresh = true
  · rw [racedRead, if_pos hnew] at hraced
    cases hc : commandStep s with
    | next t =>
      rw [hc] at hraced
      exact .inr ⟨t.element S i, .inr ⟨t, rfl, rfl⟩, readsAs_of_eq (s.fresh + 1) hraced⟩
    | fault f =>
      rw [hc] at hraced
      exact .inl ⟨f, rfl, hraced⟩
    | refused r => exact absurd hc (commandStep_not_refused s r)
  · rw [racedRead, if_neg hnew] at hraced
    obtain ⟨m, hm, hread⟩ := unsettledRead_eq s S i
    exact .inr ⟨s.elementIn m S i, .inl ⟨m, hm, rfl⟩, readsAs_of_eq (s.fresh + 1) (hraced.trans hread)⟩

/-- While IDLE an output element reads what it holds or an older content it may still show. -/
theorem hostRead_output_idle (hb : s.busy = false) {S : Space} {i : Nat} (hS : S = .orgb ∨ S = .oidx ∨ S = .tout)
    (hi : i < s.cfg.depth S) :
    ∃ m ∈ s.mem :: s.older, ReadsAs s S i (s.elementIn m S i) := by
  have hreg : S ≠ .reg := by rcases hS with rfl | rfl | rfl <;> decide
  by_cases hold : s.older = []
  · refine ⟨s.mem, List.mem_cons_self, readsAs_of_eq s.fresh ?_⟩
    rw [hostRead_seen hb hold hi, noticed_other (by simp [hreg])]
    rfl
  · obtain ⟨m, hm, hread⟩ := unsettledRead_eq s S i
    refine ⟨m, hm, readsAs_of_eq (s.fresh + 1) ?_⟩
    rw [hostRead_unseen hb hold hi]
    rcases hS with rfl | rfl | rfl <;> exact hread

/-- Settles O43: while BUSY by registers, input and output spaces; while IDLE an output read takes one content of those
it may still show. -/
theorem readsUntilTheEndIsSeen : Obligations.ReadsUntilTheEndIsSeen := by
  refine ⟨fun s w l d hrun => ?_, fun s S i hb hS hi => ⟨?_, fun a ha => ?_⟩⟩
  · have hb := busy_run hrun
    refine ⟨fun hs => ?_, fun i hi => hostRead_reg_busy_plain hb (.inl hi),
      ⟨_, _, _, hostRead_reg_busy hb (by decide), hostRead_reg_busy hb (by decide)⟩,
      ⟨_, _, hostRead_reg_busy hb (by decide), operands_run hrun ▸ busyProgress_toNat_le s⟩,
      fun i hi => ?_, fun S i hS hi => ⟨fun a ha => ?_, fun hnone => ?_⟩, fun S i hS hi => hostRead_output_busy hb hS hi⟩
    · rw [← statusWord_busy hb hs]
      exact hostRead_reg_busy_plain (i := 1) hb (by decide)
    · rw [← regWord_reserved (s := s) hi]
      exact hostRead_reg_busy_plain hb (.inr hi)
    · exact (ha ▸ hostRead_input_busy hb hS hi : ReadsAs s S i (some a))
    · exact (hnone ▸ hostRead_input_busy hb hS hi : ReadsAs s S i none)
  · obtain ⟨m, hm, hread⟩ := hostRead_output_idle hb hS hi
    refine ⟨m, hm, ?_⟩
    cases hv : s.elementIn m S i with
    | none => exact .inl ⟨rfl, (hv ▸ hread : ReadsAs s S i none)⟩
    | some a =>
      obtain ⟨f, hf⟩ : ReadsAs s S i (some a) := hv ▸ hread
      exact .inr ⟨a, f, rfl, hf⟩
  · exact hostRead_agreed hb (by rcases hS with rfl | rfl | rfl <;> decide) hi ha

end Sys2Proof.Machine
end

section
/-! PROOF. The decoder, word by word (30_encoding.md R82 to R85). -/

namespace Sys2Proof

/-- A word whose reserved bits are 0 is its OP field (30_encoding.md R82). -/
theorem toNat_of_rsvField_zero {w : Word} (h : rsvField w = 0) : w.toNat = (opField w).toNat := by
  have hhigh : w.toNat / 2 ^ 4 % 2 ^ 28 = 0 := by
    simpa [rsvField, Nat.shiftRight_eq_div_pow] using congrArg BitVec.toNat h
  have hlow : (opField w).toNat = w.toNat % 2 ^ 4 := by simp [opField]
  omega

theorem decode_of_reserved {w : Word} (h : rsvField w ≠ 0) : decode w = .error .reservedBits := if_pos h

theorem eq_encode_of_decode {w : Word} {i : Instr} (h : decode w = .ok i) : w = encode i := by
  by_cases hrsv : rsvField w = 0
  · apply BitVec.eq_of_toNat_eq
    rw [toNat_of_rsvField_zero hrsv]
    rw [decode, if_neg (not_not.2 hrsv)] at h
    split at h <;> cases h <;> assumption
  · simp [decode_of_reserved hrsv] at h

/-- The decoder reads `i` from the command word of `i` and from no other (30_encoding.md R85). -/
theorem decode_eq_ok_iff {w : Word} {i : Instr} : decode w = .ok i ↔ w = encode i :=
  ⟨eq_encode_of_decode, fun h => h ▸ decode_encode i⟩

theorem encode_injective : Function.Injective encode := fun i _ h =>
  Except.ok.inj ((decode_encode i).symm.trans (decode_eq_ok_iff.2 h))

theorem decode_error_iff {w : Word} : (∃ e, decode w = .error e) ↔ ∀ i, w ≠ encode i := by
  cases hd : decode w with
  | ok i => simpa using ⟨i, decode_eq_ok_iff.1 hd⟩
  | error e =>
    refine iff_of_true ⟨e, rfl⟩ fun i hi => ?_
    simp [decode_eq_ok_iff.2 hi] at hd

/-- Settles O2: with its reserved bits 0 a word is its OP field, which the decoder's table reads back. -/
theorem exactlyFourWordsDecode : Obligations.ExactlyFourWordsDecode :=
  ⟨⟨rfl, rfl, rfl, rfl⟩, fun _ _ => decode_eq_ok_iff, fun _ _ h => encode_injective h, fun _ => decode_error_iff⟩

/-- Settles O1: the four rows by O3's round trip, and the two refused words by the decoder itself. -/
theorem commandWordsDecodeToTheirRows : Obligations.CommandWordsDecodeToTheirRows := by
  obtain ⟨-, -, hrow⟩ := byteLanesDecodeAsTheirWord
  exact ⟨hrow .extract [] rfl, hrow .weave [] rfl, hrow .extractTxt [] rfl, hrow .weaveTxt [] rfl, rfl,
    decode_of_reserved (by decide)⟩

end Sys2Proof
end

section
/-! PROOF. An accepted CMD write (30_encoding.md R81, 10_state.md R51) and one element of `copy` (30_encoding.md R89). -/

namespace Sys2Proof.Machine

variable {s : State}

/-- Settles O34: an IDLE write to CMD is `State.accept`, whose count of inputs to pass is the free number. -/
theorem acceptedCmdWrite : Obligations.AcceptedCmdWrite := fun s w hb =>
  ⟨commandDue w s.fresh, hostWrite_reg hb (by decide) w⟩

/-- A pixel's word form loses nothing of it (10_state.md R41). -/
theorem pixelOfWord_pixWord (p : Pixel) : pixelOfWord (pixWord p) = p := by
  obtain ⟨r, g, b⟩ := p
  simp only [pixelOfWord, pixWord, Pixel.mk.injEq]
  refine ⟨?_, ?_, ?_⟩ <;>
  · apply BitVec.eq_of_getLsbD_eq
    intro i hi
    rw [BitVec.getLsbD_extractLsb']
    repeat rw [BitVec.getLsbD_append]
    interval_cases i <;> simp

/-- The host's turn of an IDLE block is its next transaction (20_memory.md R60, R68). -/
theorem step_idle_txn (hidle : s.seq = .idle) {x : Txn} {rest : List Input} (hin : s.inputs = .txn x :: rest) :
    step s = transact { s with inputs := rest } x := by
  rw [step_host (by simp [hin]) (.inl hidle)]
  simp [hostMove, hin, State.inputPasses, hidle]

/-- What the host still does, and what its last read returned, take no part in what an element holds. -/
theorem element_hostSide (s : State) (xs : List Input) (a : Word) (S : Space) (i : Nat) :
    { s with inputs := xs, answer := a }.element S i = s.element S i := by
  cases S <;> rfl

/-- The host's read of a written buffer element, the last command's end seen (70_reset_and_hazards.md R196), as a step. -/
theorem step_idle_read (hidle : s.seq = .idle) (hold : s.older = []) {S : Space} {i : Nat} {rest : List Input}
    (hin : s.inputs = .txn (.read S i) :: rest) (hS : S ≠ .reg) (hi : i < s.cfg.depth S) {a : Word}
    (ha : s.element S i = some a) : step s = .next { s with inputs := rest, answer := a } := by
  have hread := hostRead_seen (s := { s with inputs := rest }) (busy_idle hidle) hold hi
  rw [noticed_other (by simp [hS])] at hread
  rw [step_idle_txn hidle hin, transact, hread, element_hostSide s, ha]
  rfl

/-- The host's write of a buffer element while IDLE (20_memory.md R65), as a step. -/
theorem step_idle_write (hidle : s.seq = .idle) {S : Space} {i : Nat} {d : Datum} {rest : List Input}
    (hin : s.inputs = .txn (.write S i d) :: rest) (hS : S ≠ .reg) (hi : i < s.cfg.depth S) :
    step s = .next ({ s with inputs := rest }.storeWord S i (s.datum d)) := by
  have hwrite := hostWrite_buffer (s := { s with inputs := rest }) (busy_idle hidle) hS hi (s.datum d)
  rw [step_idle_txn hidle hin, ← hwrite]
  cases d <;> rfl

/-- A host's store while IDLE changes the element it writes and no other of any space. -/
theorem element_storeWord_other {S T : Space} {i j : Nat} (h : (T, j) ≠ (S, i)) (w : Word) :
    (s.storeWord S i w).element T j = s.element T j := by
  rw [← elementIn_self, elementIn_storeWord_state]
  exact elementIn_storeWord_other s.mem h w

/-- Settles O46: the first step is the read, which answers the pixel's word, and the second stores that word in CAR. -/
theorem copyMovesOneElement : Obligations.CopyMovesOneElement := by
  intro s k p rest hidle hold hk hin hp
  have hpix : s.element .orgb k = some (pixWord p) := by simp [State.element, hp]
  have hread := step_idle_read hidle hold hin (by decide) hk hpix
  have hwrite := step_idle_write (s := { s with inputs := .txn (.write .car k .answer) :: rest, answer := pixWord p })
    hidle rfl (by decide) hk
  refine ⟨_, _, hread, hwrite, rfl, hidle, ?_, fun S i hother => ?_⟩
  · exact (Buffer.read_write_self s.mem.car k _).trans (congrArg some (pixelOfWord_pixWord p))
  · rw [element_storeWord_other hother]
    exact element_hostSide s rest (pixWord p) S i

end Sys2Proof.Machine
end

section
/-! PROOF. Bit sequences as numbers (40_bitslicer.md R100, R101). -/

namespace Sys2Proof.Machine

/-- `uint` is the library's word of a list of bits, the first bit highest. -/
theorem uint_eq_toNat (s : Bits) : uint s = (BitVec.ofBoolListBE s).toNat := by
  suffices h : ∀ acc, s.foldl (fun acc bit => 2 * acc + bit.toNat) acc =
      acc * 2 ^ s.length + (BitVec.ofBoolListBE s).toNat from (h 0).trans (by simp)
  induction s with
  | nil => simp [BitVec.ofBoolListBE]
  | cons c s ih =>
    intro acc
    simp only [List.foldl_cons, ih, BitVec.ofBoolListBE, BitVec.toNat_cons', Nat.shiftLeft_eq, List.length_cons]
    ring

theorem uint_cons (c : Bool) (s : Bits) : uint (c :: s) = c.toNat * 2 ^ s.length + uint s := by
  rw [uint_eq_toNat, uint_eq_toNat, BitVec.ofBoolListBE, BitVec.toNat_cons', Nat.shiftLeft_eq]

theorem uint_lt (s : Bits) : uint s < 2 ^ s.length := by
  rw [uint_eq_toNat]
  exact BitVec.isLt _

/-- Each bit of a sequence is read back from its number. -/
theorem getElem_eq_uint_testBit {s : Bits} {i : Nat} (hi : i < s.length) :
    s[i] = (uint s).testBit (s.length - 1 - i) := by
  rw [uint_eq_toNat, BitVec.testBit_toNat, BitVec.getLsbD_ofBoolListBE,
    show s.length - 1 - (s.length - 1 - i) = i by omega]
  simp [hi]
  omega

/-- A sequence's length and number determine it. -/
theorem eq_of_uint_eq {s t : Bits} (hlen : s.length = t.length) (h : uint s = uint t) : s = t :=
  List.ext_getElem hlen fun i hs ht => by rw [getElem_eq_uint_testBit hs, getElem_eq_uint_testBit ht, h, hlen]

/-- A sequence that lists a word's bits, the highest first, has the word's value. -/
theorem uint_eq_of_getMsbD {w : Nat} {x : BitVec w} {s : Bits} (hlen : s.length = w)
    (h : ∀ i < w, s.getD i false = x.getMsbD i) : uint s = x.toNat := by
  subst hlen
  rw [uint_eq_toNat]
  exact congrArg BitVec.toNat (BitVec.eq_of_getMsbD_eq fun i hi => by rw [BitVec.getMsbD_ofBoolListBE, h i hi])

theorem bits8_length (v : Byte) : (bits8 v).length = 8 := rfl

theorem bits8_getElem? (v : Byte) {i : Nat} (hi : i < 8) : (bits8 v)[i]? = some (v.getLsbD (7 - i)) := by
  interval_cases i <;> rfl

theorem uint_bits8 (v : Byte) : uint (bits8 v) = v.toNat := by
  refine uint_eq_of_getMsbD rfl fun i hi => ?_
  simp [List.getD_eq_getElem?_getD, bits8_getElem? v hi, BitVec.getMsbD, hi]

/-- Settles O4: `uint` is the value of the library's word of a list of bits. -/
theorem bitSequencesReadBack : Obligations.BitSequencesReadBack :=
  ⟨fun v => ⟨bits8_length v, fun _ hi => bits8_getElem? v hi⟩, uint_cons, rfl, uint_lt, uint_bits8⟩

end Sys2Proof.Machine
end

section
/-! PROOF. The slicers bit by bit, and their laws (40_bitslicer.md R103 to R106, R110). -/

namespace Sys2Proof.Machine

/-! ## The places of the bits -/

theorem ext332_getLsbD (p : Pixel) {i : Nat} (hi : i < 8) : (ext332 p).getLsbD i =
    if i < 2 then p.b.getLsbD i else if i < 5 then p.g.getLsbD (i - 2) else p.r.getLsbD (i - 5) := by
  interval_cases i <;> simp [ext332]

theorem ext222_getLsbD (p : Pixel) {i : Nat} (hi : i < 6) : (ext222 p).getLsbD i =
    if i < 2 then p.b.getLsbD i else if i < 4 then p.g.getLsbD (i - 2) else p.r.getLsbD (i - 4) := by
  interval_cases i <;> simp [ext222]

/-- A channel whose low bits are replaced by bits [h:l] of v, under a mask that keeps its other bits. -/
theorem replaceLow_getLsbD {n h l : Nat} (x m : Byte) (v : BitVec n)
    (hm : ∀ i < 8, m.getLsbD i = decide (h - l + 1 ≤ i)) {i : Nat} (hi : i < 8) :
    ((x &&& m) ||| (v.extractLsb h l).setWidth 8).getLsbD i =
      if i < h - l + 1 then v.getLsbD (l + i) else x.getLsbD i := by
  rw [BitVec.getLsbD_or, BitVec.getLsbD_and, hm i hi, BitVec.getLsbD_setWidth, BitVec.getLsbD_extractLsb]
  by_cases hlow : i < h - l + 1
  · simp [hi, hlow, Nat.lt_succ_iff.1 hlow]
  · simp [hi, hlow, Nat.not_lt.1 hlow]

theorem ins332_getLsbD (p : Pixel) (v : Byte) {i : Nat} (hi : i < 8) :
    (ins332 p v).r.getLsbD i = (if i < 3 then v.getLsbD (5 + i) else p.r.getLsbD i) ∧
    (ins332 p v).g.getLsbD i = (if i < 3 then v.getLsbD (2 + i) else p.g.getLsbD i) ∧
    (ins332 p v).b.getLsbD i = (if i < 2 then v.getLsbD (0 + i) else p.b.getLsbD i) :=
  ⟨replaceLow_getLsbD p.r 0xF8 v (by decide) hi, replaceLow_getLsbD p.g 0xF8 v (by decide) hi,
    replaceLow_getLsbD p.b 0xFC v (by decide) hi⟩

theorem ins222_getLsbD (p : Pixel) (g : BitVec 6) {i : Nat} (hi : i < 8) :
    (ins222 p g).r.getLsbD i = (if i < 2 then g.getLsbD (4 + i) else p.r.getLsbD i) ∧
    (ins222 p g).g.getLsbD i = (if i < 2 then g.getLsbD (2 + i) else p.g.getLsbD i) ∧
    (ins222 p g).b.getLsbD i = (if i < 2 then g.getLsbD (0 + i) else p.b.getLsbD i) :=
  ⟨replaceLow_getLsbD p.r 0xFC g (by decide) hi, replaceLow_getLsbD p.g 0xFC g (by decide) hi,
    replaceLow_getLsbD p.b 0xFC g (by decide) hi⟩

theorem Pixel.eq_of_getLsbD {p q : Pixel} (h : ∀ i < 8, p.r.getLsbD i = q.r.getLsbD i ∧
    p.g.getLsbD i = q.g.getLsbD i ∧ p.b.getLsbD i = q.b.getLsbD i) : p = q := by
  simp only [imp_and, forall_and] at h
  obtain ⟨hr, hg, hb⟩ := h
  obtain ⟨r, g, b⟩ := p
  rw [Pixel.mk.injEq]
  exact ⟨BitVec.eq_of_getLsbD_eq hr, BitVec.eq_of_getLsbD_eq hg, BitVec.eq_of_getLsbD_eq hb⟩

/-- Channels agree from bit l up when their bits do. -/
theorem extractLsb_seven_congr {x y : Byte} {l : Nat} (h : ∀ i < 8, l ≤ i → x.getLsbD i = y.getLsbD i) :
    x.extractLsb 7 l = y.extractLsb 7 l := by
  refine BitVec.eq_of_getLsbD_eq fun j hj => ?_
  rw [BitVec.getLsbD_extractLsb, BitVec.getLsbD_extractLsb]
  by_cases hl : l + j < 8
  · rw [h _ hl (Nat.le_add_right ..)]
  · simp [Nat.not_lt.1 hl]

/-! ## The laws -/

theorem ext332_ins332 (p : Pixel) (v : Byte) : ext332 (ins332 p v) = v := by
  refine BitVec.eq_of_getLsbD_eq fun i hi => ?_
  interval_cases i <;> simp [-BitVec.getLsbD_eq_getElem, ext332_getLsbD, ins332_getLsbD]

theorem ext222_ins222 (p : Pixel) (g : BitVec 6) : ext222 (ins222 p g) = g := by
  refine BitVec.eq_of_getLsbD_eq fun i hi => ?_
  interval_cases i <;> simp [-BitVec.getLsbD_eq_getElem, ext222_getLsbD, ins222_getLsbD]

theorem ins332_sameHigh332 (p : Pixel) (v : Byte) : (ins332 p v).sameHigh332 p := by
  refine ⟨extractLsb_seven_congr fun i hi hl => ?_, extractLsb_seven_congr fun i hi hl => ?_,
    extractLsb_seven_congr fun i hi hl => ?_⟩ <;> simp [ins332_getLsbD p v hi, Nat.not_lt.2 hl]

theorem ins222_sameHigh222 (p : Pixel) (g : BitVec 6) : (ins222 p g).sameHigh222 p := by
  refine ⟨extractLsb_seven_congr fun i hi hl => ?_, extractLsb_seven_congr fun i hi hl => ?_,
    extractLsb_seven_congr fun i hi hl => ?_⟩ <;> simp [ins222_getLsbD p g hi, Nat.not_lt.2 hl]

theorem ins332_ext332 (p : Pixel) : ins332 p (ext332 p) = p := by
  refine Pixel.eq_of_getLsbD fun i hi => ?_
  interval_cases i <;> simp [-BitVec.getLsbD_eq_getElem, ext332_getLsbD, ins332_getLsbD]

theorem ins222_ext222 (p : Pixel) : ins222 p (ext222 p) = p := by
  refine Pixel.eq_of_getLsbD fun i hi => ?_
  interval_cases i <;> simp [-BitVec.getLsbD_eq_getElem, ext222_getLsbD, ins222_getLsbD]

theorem ins332_ins332 (p : Pixel) (v w : Byte) : ins332 (ins332 p v) w = ins332 p w := by
  refine Pixel.eq_of_getLsbD fun i hi => ?_
  simp only [ins332_getLsbD _ _ hi]
  refine ⟨?_, ?_, ?_⟩ <;> split <;> rfl

theorem ins222_ins222 (p : Pixel) (g h : BitVec 6) : ins222 (ins222 p g) h = ins222 p h := by
  refine Pixel.eq_of_getLsbD fun i hi => ?_
  simp only [ins222_getLsbD _ _ hi]
  refine ⟨?_, ?_, ?_⟩ <;> split <;> rfl

/-- Settles O6: each law compares two pixels or two words place by place. -/
theorem slicerLaws : Obligations.SlicerLaws := fun p v w g h =>
  ⟨ext332_ins332 p v, ext222_ins222 p g, ins332_sameHigh332 p v, ins222_sameHigh222 p g, ins332_ext332 p,
    ins222_ext222 p, ins222_ins222 p g h, ins332_ins332 p v w⟩

/-! ## The bit-sequence forms -/

theorem uint_lowBits332 (p : Pixel) :
    uint ((bits8 p.r).drop 5 ++ (bits8 p.g).drop 5 ++ (bits8 p.b).drop 6) = (ext332 p).toNat := by
  refine uint_eq_of_getMsbD rfl fun i hi => ?_
  interval_cases i <;> simp [-BitVec.getLsbD_eq_getElem, BitVec.getMsbD, ext332_getLsbD, bits8]

theorem uint_seq6 (p : Pixel) : uint (seq6 p) = (ext222 p).toNat := by
  refine uint_eq_of_getMsbD rfl fun i hi => ?_
  interval_cases i <;> simp [-BitVec.getLsbD_eq_getElem, BitVec.getMsbD, ext222_getLsbD, seq6, bits8]

theorem ext332_extractLsb (p : Pixel) :
    (ext332 p).extractLsb 7 5 = p.r.extractLsb 2 0 ∧ (ext332 p).extractLsb 4 2 = p.g.extractLsb 2 0 ∧
      (ext332 p).extractLsb 1 0 = p.b.extractLsb 1 0 := by
  refine ⟨BitVec.eq_of_getLsbD_eq fun i hi => ?_, BitVec.eq_of_getLsbD_eq fun i hi => ?_,
    BitVec.eq_of_getLsbD_eq fun i hi => ?_⟩ <;>
  interval_cases i <;> simp [-BitVec.getLsbD_eq_getElem, ext332_getLsbD]

theorem ext222_extractLsb (p : Pixel) :
    (ext222 p).extractLsb 5 4 = p.r.extractLsb 1 0 ∧ (ext222 p).extractLsb 3 2 = p.g.extractLsb 1 0 ∧
      (ext222 p).extractLsb 1 0 = p.b.extractLsb 1 0 := by
  refine ⟨BitVec.eq_of_getLsbD_eq fun i hi => ?_, BitVec.eq_of_getLsbD_eq fun i hi => ?_,
    BitVec.eq_of_getLsbD_eq fun i hi => ?_⟩ <;>
  interval_cases i <;> simp [-BitVec.getLsbD_eq_getElem, ext222_getLsbD]

/-- Settles O5: the lanes from the places of the result's bits, and the sequences by reading them highest bit first. -/
theorem slicersTakeLowBitsInLaneOrder : Obligations.SlicersTakeLowBitsInLaneOrder := by
  refine ⟨fun p => ?_, fun p => ?_, by decide, by decide⟩
  · obtain ⟨hr, hg, hb⟩ := ext332_extractLsb p
    exact ⟨hr, hg, hb, (uint_lowBits332 p).symm⟩
  · obtain ⟨hr, hg, hb⟩ := ext222_extractLsb p
    exact ⟨hr, hg, hb, uint_seq6 p, rfl⟩

end Sys2Proof.Machine
end

section
/-! PROOF. Partial insertion (40_bitslicer.md R107) and the payload of a pixel (42_text_codec.md R147 to R152). -/

namespace Sys2Proof.Machine

/-- Inserting the number of six bits leaves those bits as the low ones. -/
theorem seq6_ins222_uint (p : Pixel) {s : Bits} (hs : s.length = 6) :
    seq6 (ins222 p (BitVec.ofNat 6 (uint s))) = s := by
  refine eq_of_uint_eq hs.symm ?_
  rw [uint_seq6, ext222_ins222, BitVec.toNat_ofNat, Nat.mod_eq_of_lt (hs ▸ uint_lt s)]

/-- A partial insertion is a full one of the new bits and the old ones after them, where there are no new bits too. -/
theorem insPart222_eq_ins222 (p : Pixel) (s : Bits) :
    insPart222 p s = ins222 p (BitVec.ofNat 6 (uint (s ++ (seq6 p).drop s.length))) := by
  unfold insPart222
  split
  · next h => simp [h, uint_seq6, ins222_ext222]
  · rfl

theorem seq6_insPart222 (p : Pixel) {s : Bits} (hs : s.length ≤ 6) :
    seq6 (insPart222 p s) = s ++ (seq6 p).drop s.length := by
  rw [insPart222_eq_ins222]
  exact seq6_ins222_uint p (by simp [seq6_length]; omega)

theorem insPart222_sameHigh222 (p : Pixel) (s : Bits) : (insPart222 p s).sameHigh222 p :=
  insPart222_eq_ins222 p s ▸ ins222_sameHigh222 p _

theorem insPart222_six (p : Pixel) {s : Bits} (hs : s.length = 6) :
    insPart222 p s = ins222 p (BitVec.ofNat 6 (uint s)) := by
  rw [insPart222_eq_ins222, hs, List.drop_of_length_le (seq6_length p).le, List.append_nil]

theorem insPart222_nil (p : Pixel) : insPart222 p [] = p := if_pos rfl

/-! ## The payload of a pixel -/

theorem frame_length (text : List Word) : (frame text).length = frameLength text.length := by
  simp [frame, frameLength, sentinel, pad]
  omega

theorem frameBits_length (text : List Word) : (frameBits text).length = 8 * frameLength text.length := by
  simp [frameBits, List.length_flatMap, bits8_length, frame_length, mul_comm]

theorem payloadBits_length (y : Bits) (n : Nat) : (payloadBits y n).length = min 6 (y.length - 6 * n) := by
  simp [payloadBits]

/-- The last pixel's payload is even, as a frame is of whole bytes. -/
theorem payloadBits_frameBits_length {text : List Word} {n : Nat} (hn : n < pixelBudget text.length) :
    (payloadBits (frameBits text) n).length = 6 ∨ (n + 1 = pixelBudget text.length ∧
      ((payloadBits (frameBits text) n).length = 2 ∨ (payloadBits (frameBits text) n).length = 4)) := by
  rw [payloadBits_length, frameBits_length]
  unfold pixelBudget ceilDiv at *
  omega

/-- Settles O7: a partial insertion is a full one, whose six bits are read back as they were put in. -/
theorem partialInsertionKeepsTheRest : Obligations.PartialInsertionKeepsTheRest :=
  ⟨fun p s hs => ⟨seq6_insPart222 p hs, insPart222_sameHigh222 p s, insPart222_six p,
    fun h => h ▸ insPart222_nil p⟩, fun _ _ => payloadBits_frameBits_length⟩

end Sys2Proof.Machine
end

section
/-! PROOF. The character maps and the text constants (40_bitslicer.md R111 to R116, 42_text_codec.md R147). -/

namespace Sys2Proof.Machine

theorem chr2byte_of_le {c : Word} (h : c.toNat ≤ 0xFF) : (chr2byte c).toNat = c.toNat := by
  rw [chr2byte, if_pos h, BitVec.toNat_setWidth, Nat.mod_eq_of_lt (by omega)]

theorem chr2byte_of_gt {c : Word} (h : 0xFF < c.toNat) : chr2byte c = 0x3F := if_neg (Nat.not_le.2 h)

/-- Settles O8: the two branches of the character map. -/
theorem characterMapSubstitutes : Obligations.CharacterMapSubstitutes := fun _ => ⟨chr2byte_of_le, chr2byte_of_gt⟩

theorem validCode_iff {p : Params} {c : Byte} : validCode p c = true ↔ c ∉ p.invalidCodes := by
  simp [validCode]

theorem decodeChunk_of_valid {p : Params} {c : Byte} (h : validCode p c = true) : decodeChunk p c = [c] := if_pos h

theorem decodeChunk_of_invalid {p : Params} {c : Byte} (h : ¬ validCode p c = true) : decodeChunk p c = placeholder :=
  if_neg h

/-- Six bits or fewer hold less than the sentinel's last byte. -/
theorem sentinel_last_ne_uint {s : Bits} (hs : s.length ≤ 6) : sentinel[4]? ≠ some (BitVec.ofNat 8 (uint s)) := by
  have hlt : uint s < 2 ^ 6 := (uint_lt s).trans_le (Nat.pow_le_pow_right (by decide) hs)
  intro h
  have hlast : 0x7D = uint s % 2 ^ 8 := congrArg BitVec.toNat (Option.some.inj h)
  omega

/-- Settles O9: the first two items are about the eight bytes alone. -/
theorem sentinelHasNoBorder : Obligations.SentinelHasNoBorder := by
  refine ⟨fun k hpos hlt => ?_, by decide, fun _ => sentinel_last_ne_uint⟩
  interval_cases k <;> decide

/-- Settles O10: the bytes and the frame stand in the definitions, and `decodeChunk` splits on VALID_CODE. -/
theorem textConstantsAndFrame : Obligations.TextConstantsAndFrame :=
  ⟨rfl, fun _ _ => ⟨fun h => decodeChunk_of_valid (validCode_iff.2 h), fun h =>
    decodeChunk_of_invalid fun hv => validCode_iff.1 hv h⟩, fun _ => rfl, by decide⟩

end Sys2Proof.Machine
end

section
/-! PROOF. The image codec's commands: how EXTRACT and WEAVE end, and the image round trip (41_image_codec.md). -/

namespace Sys2Proof.Machine

/-- `end OK` leaves the flags, PROGRESS and the sequencer of a success (60_exceptions.md R166). -/
theorem endOk_endedOk (s : State) (K : Nat) (found : Bool) : (s.endOk K found).endedOk K found :=
  ⟨rfl, rfl, rfl, rfl, rfl, rfl⟩

/-- `raise Error(code)` leaves the flags, PROGRESS and the sequencer of that error (60_exceptions.md R165). -/
theorem raiseError_endedWith (s : State) {code : ErrCode} (hcode : code ≠ .none) :
    (s.raiseError code).endedWith code :=
  ⟨rfl, rfl, by simpa using hcode, rfl, rfl, rfl⟩

/-- A store of a list writes its values to the elements below the list's length. -/
theorem Buffer.read_store_below {α : Type} (b : Buffer α) {vs : List α} {n : Nat} (h : n < vs.length) :
    Buffer.read (Buffer.store b vs) n = vs[n]? := by
  rw [Buffer.read_store, if_pos h]

/-- A store of the loaded pixels' indices: element n is the index of carrier pixel n. -/
theorem read_store_ext332 {car : Buffer Pixel} {K : Nat} {px : List Pixel} (hpx : Buffer.load car K = some px)
    (b : Buffer Byte) {n : Nat} (hn : n < K) :
    Buffer.read (Buffer.store b (px.map ext332)) n = (Buffer.read car n).map ext332 := by
  obtain ⟨hlen, hcar⟩ := Buffer.load_eq_some.1 hpx
  rw [Buffer.read_store_below b (by simpa [hlen] using hn), hcar n hn, List.getElem?_map]

/-- A store of the woven pixels: element n is carrier pixel n with embedded pixel n spliced in. -/
theorem read_store_ins332 {car : Buffer Pixel} {emb : Buffer Byte} {K : Nat} {px : List Pixel} {vs : List Byte}
    (hpx : Buffer.load car K = some px) (hvs : Buffer.load emb K = some vs) (b : Buffer Pixel) {n : Nat} (hn : n < K)
    {p : Pixel} {v : Byte} (hp : Buffer.read car n = some p) (hv : Buffer.read emb n = some v) :
    Buffer.read (Buffer.store b (List.zipWith ins332 px vs)) n = some (ins332 p v) := by
  obtain ⟨hpxlen, hcar⟩ := Buffer.load_eq_some.1 hpx
  obtain ⟨hvslen, hemb⟩ := Buffer.load_eq_some.1 hvs
  rw [Buffer.read_store_below b (by simpa [hpxlen, hvslen] using hn), List.getElem?_zipWith, ← hcar n hn, hp,
    ← hemb n hn, hv]

/-- Settles O18: the carrier loads, and the K indices are stored from element 0 on. -/
theorem extractCompletes : Obligations.ExtractCompletes := by
  intro s hfit hcar
  obtain ⟨px, hpx⟩ := Buffer.exists_load hcar
  obtain ⟨hlen, -⟩ := Buffer.load_eq_some.1 hpx
  refine ⟨_, execExtract_next.2 (.inr ⟨carrierFits_iff.2 hfit, px, hpx, rfl⟩), endOk_endedOk _ _ _, fun n p hn hp => ?_,
    fun n hn => ?_⟩
  · exact (read_store_ext332 hpx s.mem.oidx hn).trans (congrArg (Option.map ext332) hp)
  · exact Buffer.read_store_above s.mem.oidx (by simpa [hlen] using hn)

/-- Settles O19: both rasters load, and the K woven pixels are stored from element 0 on. -/
theorem weaveCompletes : Obligations.WeaveCompletes := by
  intro s hfit hw hh hcar hemb
  obtain ⟨px, hpx⟩ := Buffer.exists_load hcar
  obtain ⟨vs, hvs⟩ := Buffer.exists_load hemb
  obtain ⟨hlen, -⟩ := Buffer.load_eq_some.1 hpx
  refine ⟨_, execWeave_next.2 (.inr (.inr ⟨carrierFits_iff.2 hfit, sizesAgree_iff.2 ⟨hw, hh⟩, px, vs, hpx, hvs, rfl⟩)),
    endOk_endedOk _ _ _, fun n p v hn hp hv => ?_, fun n hn => ?_⟩
  · exact read_store_ins332 hpx hvs s.mem.orgb hn hp hv
  · exact Buffer.read_store_above s.mem.orgb (by simp [hlen, hn])

/-- Settles O23: the size check comes before any read, and `raise Error` writes flags alone. -/
theorem sizeMismatch : Obligations.SizeMismatch := fun s hfit hdiff =>
  ⟨_, execWeave_next.2 (.inr (.inl ⟨carrierFits_iff.2 hfit, sizesDiffer_iff.2 hdiff, rfl⟩)),
    raiseError_endedWith s (by decide), rfl⟩

/-- Settles O32: WEAVE puts EMB[n] into pixel n, and EXTRACT of the copy takes it out again (40_bitslicer.md R110
law 1). -/
theorem imageRoundTrip : Obligations.ImageRoundTrip := by
  intro s hfit hw hh hcar hemb
  obtain ⟨t, hweave, ⟨-, -, htok, -⟩, hwoven, -⟩ := weaveCompletes s hfit hw hh hcar hemb
  refine ⟨t, hweave, htok, fun u hcfg hK hcopy => ?_⟩
  have copied : ∀ n < s.operands.pixels,
      ∃ p e, Buffer.read s.mem.emb n = some e ∧ Buffer.read u.mem.car n = some (ins332 p e) := fun n hn => by
    obtain ⟨p, hp⟩ := Option.isSome_iff_exists.1 (hcar n hn)
    obtain ⟨e, he⟩ := Option.isSome_iff_exists.1 (hemb n hn)
    exact ⟨p, e, he, (hcopy n hn).trans (hwoven n p e hn hp he)⟩
  have hucar : u.carLoaded := fun n hn => by
    obtain ⟨p, e, -, hu⟩ := copied n (hK ▸ hn)
    rw [hu, Option.isSome_some]
  obtain ⟨v, hextract, ⟨-, -, hvok, -⟩, hindex, -⟩ := extractCompletes u (by rw [hK, hcfg]; exact hfit) hucar
  refine ⟨v, hextract, hvok, fun n hn => ?_⟩
  obtain ⟨p, e, he, hu⟩ := copied n hn
  calc Buffer.read v.mem.oidx n = some (ext332 (ins332 p e)) := hindex n _ (hK ▸ hn) hu
    _ = some e := by rw [ext332_ins332]
    _ = Buffer.read s.mem.emb n := he.symm

end Sys2Proof.Machine
end

section
/-! PROOF. The sentinel detector (42_text_codec.md R143, R144, R146). "The sentinel stands at index i of d" is written
`sentinel <+: d.drop i`. -/

namespace Sys2Proof.Machine

/-- The five bytes from index i on are the sentinel exactly where it stands at i. -/
theorem take_five_eq_sentinel_iff {d : List Byte} : d.take 5 = sentinel ↔ sentinel <+: d :=
  eq_comm.trans List.prefix_iff_eq_take.symm

theorem findSentinel_cons (c : Byte) (cs : List Byte) :
    findSentinel (c :: cs) = if sentinel <+: c :: cs then some 0 else (findSentinel cs).map (· + 1) := by
  simp only [findSentinel, take_five_eq_sentinel_iff]

/-- The detector answers the least index where the sentinel stands. -/
theorem findSentinel_eq_some_iff {d : List Byte} {i : Nat} :
    findSentinel d = some i ↔ sentinel <+: d.drop i ∧ ∀ j < i, ¬sentinel <+: d.drop j := by
  induction d generalizing i with
  | nil => simp [findSentinel, sentinel]
  | cons c cs ih =>
    rw [findSentinel_cons]
    split
    · next h =>
      refine ⟨?_, fun ⟨_, hleast⟩ => ?_⟩
      · rintro ⟨⟩
        exact ⟨h, by simp⟩
      · exact congrArg some (Nat.eq_zero_of_not_pos fun hpos => hleast 0 hpos h).symm
    · next h =>
      cases i with
      | zero => simp [h]
      | succ i =>
        rw [Nat.forall_lt_succ_left']
        simp [ih, h]

theorem findSentinel_eq_none_iff {d : List Byte} : findSentinel d = none ↔ ∀ i, ¬sentinel <+: d.drop i := by
  refine ⟨fun hnone i h => ?_, fun h => ?_⟩
  · have hfind := findSentinel_eq_some_iff.2
      ⟨Nat.find_spec (p := fun i => sentinel <+: d.drop i) ⟨i, h⟩, fun j hj => Nat.find_min _ hj⟩
    rw [hnone] at hfind
    cases hfind
  · refine Option.eq_none_iff_forall_ne_some.2 fun i hi => ?_
    obtain ⟨hat, -⟩ := findSentinel_eq_some_iff.1 hi
    exact h i hat

/-- The detector depends only on where the sentinel stands. -/
theorem findSentinel_congr {d e : List Byte} (h : ∀ i, sentinel <+: d.drop i ↔ sentinel <+: e.drop i) :
    findSentinel d = findSentinel e :=
  Option.ext fun i => by simp only [findSentinel_eq_some_iff, h]

theorem sentinel_length_le {d : List Byte} {i : Nat} (h : sentinel <+: d.drop i) : i + 5 ≤ d.length := by
  have hlen : 5 ≤ (d.drop i).length := h.length_le
  rw [List.length_drop] at hlen
  omega

theorem textBeforeSentinel_of_some {d : List Byte} {i : Nat} (h : findSentinel d = some i) :
    textBeforeSentinel d = d.take i := by
  simp only [textBeforeSentinel, h]

theorem textBeforeSentinel_of_none {d : List Byte} (h : findSentinel d = none) : textBeforeSentinel d = d := by
  simp only [textBeforeSentinel, h]

/-- Settles O11: the detector's search from the front, and the two cases of the returned text. -/
theorem detectorFindsFirstSentinel : Obligations.DetectorFindsFirstSentinel := by
  refine fun d => ⟨fun i => ?_, fun i => textBeforeSentinel_of_some, textBeforeSentinel_of_none⟩
  simp only [findSentinel_eq_some_iff, ne_eq, take_five_eq_sentinel_iff]
  exact ⟨fun ⟨hat, hleast⟩ => ⟨sentinel_length_le hat, hat, hleast⟩, And.right⟩

/-! ## The sentinel's first byte -/

/-- The sentinel's first byte stands in it once: it has no border (40_bitslicer.md R116 item 1). -/
theorem eq_zero_of_sentinel_first {k : Nat} (h : sentinel[k]? = some 0x7B) : k = 0 := by
  have hall : ∀ k < 5, sentinel[k]? = some 0x7B → k = 0 := by decide
  exact hall k (List.getElem?_eq_some_iff.1 h).1 h

/-- Where the sentinel stands at j, byte j + k is its byte k. -/
theorem getElem?_of_sentinel {d : List Byte} {j k : Nat} (h : sentinel <+: d.drop j) (hk : k < 5) :
    d[j + k]? = sentinel[k]? := by
  rw [← List.getElem?_drop]
  exact (List.prefix_iff_getElem?.1 h k hk).trans (List.getElem?_eq_getElem hk).symm

/-- Nothing is found in front of the place from which the sentinel can stand. -/
theorem findSentinel_append (u d : List Byte) (h : ∀ j < u.length, ¬sentinel <+: (u ++ d).drop j) :
    findSentinel (u ++ d) = (findSentinel d).map (· + u.length) := by
  induction u with
  | nil => simp
  | cons c u ih =>
    have hhere : ¬sentinel <+: c :: (u ++ d) := h 0 (Nat.succ_pos _)
    rw [List.cons_append, findSentinel_cons, if_neg hhere,
      ih fun j hj => h (j + 1) (Nat.succ_lt_succ hj), Option.map_map]
    rfl

/-- After some matched bytes and a mismatch, only the mismatching byte itself can begin the sentinel. -/
theorem findSentinel_mismatch {m : Nat} (hm : m < 5) {c : Byte} (hc : sentinel[m]? ≠ some c) (cs : List Byte) :
    findSentinel (sentinel.take m ++ c :: cs) = (findSentinel (c :: cs)).map (· + m) := by
  have hlen : (sentinel.take m).length = m := List.length_take_of_le (Nat.le_of_lt hm)
  conv_rhs => rw [← hlen]
  refine findSentinel_append _ _ fun j hj hat => ?_
  rw [hlen] at hj
  have hfirst : sentinel[j]? = some 0x7B := by
    have := getElem?_of_sentinel hat (k := 0) (by decide)
    rwa [Nat.add_zero, List.getElem?_append_left (hlen.symm ▸ hj), List.getElem?_take_of_lt hj] at this
  have hmiss := getElem?_of_sentinel hat hm
  rw [eq_zero_of_sentinel_first hfirst, Nat.zero_add, List.getElem?_append_right hlen.le, hlen, Nat.sub_self] at hmiss
  exact hc hmiss.symm

/-- A byte that is not the sentinel's first begins no sentinel. -/
theorem findSentinel_cons_of_ne {c : Byte} (hc : sentinel[0]? ≠ some c) (cs : List Byte) :
    findSentinel (c :: cs) = (findSentinel cs).map (· + 1) :=
  findSentinel_append [c] cs fun j hj hat => by
    obtain rfl : j = 0 := by simpa using hj
    exact hc (getElem?_of_sentinel hat (k := 0) (by decide)).symm

/-- A matched byte is one more byte of the sentinel in front of what is still to be read. -/
theorem sentinel_take_succ {m : Nat} {c : Byte} (hc : sentinel[m]? = some c) (cs : List Byte) :
    sentinel.take m ++ c :: cs = sentinel.take (m + 1) ++ cs := by
  rw [List.take_add_one, hc, Option.toList_some, List.append_assoc, List.singleton_append]

/-- With m bytes matched, the streaming detector searches those bytes and what is still to be read. -/
theorem scanStream_eq (d : List Byte) {m pos : Nat} (hm : m < 5) (hpos : m ≤ pos) :
    scanStream m pos d = (findSentinel (sentinel.take m ++ d)).map (· + (pos - m)) := by
  induction d generalizing m pos with
  | nil => interval_cases m <;> rfl
  | cons c cs ih =>
    rw [scanStream, scanByte]
    by_cases hc : sentinel[m]? = some c
    · rw [if_pos hc, sentinel_take_succ hc]
      split
      · next h5 =>
        obtain rfl : m = 4 := by omega
        have hfound : findSentinel (sentinel.take (4 + 1) ++ cs) = some 0 :=
          findSentinel_eq_some_iff.2 ⟨List.prefix_append _ _, by simp⟩
        rw [hfound, Option.map_some, Nat.zero_add]
      · rw [ih (by omega) (by omega), Nat.add_sub_add_right]
    · rw [if_neg hc, findSentinel_mismatch hm hc, Option.map_map]
      have hshift : ((· + (pos - m)) ∘ (· + m) : Nat → Nat) = (· + pos) :=
        funext fun n => by simp only [Function.comp_apply]; omega
      rw [hshift]
      by_cases h0 : sentinel[0]? = some c
      · rw [if_pos h0, if_neg (by decide), ih (by decide) (by omega), ← sentinel_take_succ h0]
        rfl
      · rw [if_neg h0, if_neg (by decide), ih (by decide) (by omega), findSentinel_cons_of_ne h0, Option.map_map]
        exact congrArg (Option.map · _) (funext fun n => by simp only [Function.comp_apply]; omega)

/-- Settles O12: the streaming detector starts with no byte matched. -/
theorem streamingDetectorAgrees : Obligations.StreamingDetectorAgrees := fun d =>
  (scanStream_eq d (by decide) le_rfl).trans (by simp)

/-! ## Bytes after the text -/

/-- Bytes after the text do not change whether the sentinel stands within it. -/
theorem sentinel_append_iff {d : List Byte} {i : Nat} (hi : i + 5 ≤ d.length) (e : List Byte) :
    sentinel <+: (d ++ e).drop i ↔ sentinel <+: d.drop i := by
  have hlen : sentinel.length ≤ (d.drop i).length := by rw [List.length_drop]; exact Nat.le_sub_of_add_le' hi
  rw [List.drop_append_of_le_length (by omega)]
  have hdrop : d.drop i <+: d.drop i ++ e := List.prefix_append ..
  exact ⟨fun h => List.prefix_of_prefix_length_le h hdrop hlen, fun h => h.trans hdrop⟩

/-- Bytes after the text, none of them the sentinel's last, complete no sentinel (R146 item 2). -/
theorem findSentinel_append_of_last_notMem {e : List Byte} (he : 0x7D ∉ e) (d : List Byte) :
    findSentinel (d ++ e) = findSentinel d := by
  refine findSentinel_congr fun i => ?_
  by_cases hi : i + 5 ≤ d.length
  · exact sentinel_append_iff hi e
  · refine iff_of_false (fun h => he ?_) fun h => hi (sentinel_length_le h)
    have hlast : (d ++ e)[i + 4]? = some 0x7D := getElem?_of_sentinel h (by decide)
    rw [List.getElem?_append_right (by omega)] at hlast
    exact List.mem_of_getElem? hlast

/-- In a text followed by the sentinel, the first sentinel is the text's own first one, or the one after it. -/
theorem findSentinel_append_sentinel (a e : List Byte) :
    findSentinel (a ++ sentinel ++ e) = some ((findSentinel a).getD a.length) := by
  rw [findSentinel_eq_some_iff, List.append_assoc]
  cases ha : findSentinel a with
  | some i =>
    obtain ⟨hat, hleast⟩ := findSentinel_eq_some_iff.1 ha
    have hlen := sentinel_length_le hat
    refine ⟨(sentinel_append_iff hlen _).2 hat, fun j (hj : j < i) h => hleast j hj ?_⟩
    exact (sentinel_append_iff (by omega) _).1 h
  | none =>
    rw [Option.getD_none, List.drop_left]
    refine ⟨List.prefix_append _ _, fun j hj h => ?_⟩
    by_cases hin : j + 5 ≤ a.length
    · exact findSentinel_eq_none_iff.1 ha j ((sentinel_append_iff hin _).1 h)
    · have hfirst := getElem?_of_sentinel h (k := a.length - j) (by omega)
      rw [show j + (a.length - j) = a.length by omega, List.getElem?_append_right le_rfl, Nat.sub_self] at hfirst
      have := eq_zero_of_sentinel_first hfirst.symm
      omega

/-- The first sentinel of a text, or its end, is within it. -/
theorem findSentinel_getD_le (a : List Byte) : (findSentinel a).getD a.length ≤ a.length := by
  cases ha : findSentinel a with
  | none => exact le_rfl
  | some i =>
    obtain ⟨hat, -⟩ := findSentinel_eq_some_iff.1 ha
    exact (Nat.le_add_right i 5).trans (sentinel_length_le hat)

/-- A text followed by the sentinel is returned up to its own first sentinel, or whole. -/
theorem textBeforeSentinel_append_sentinel (a e : List Byte) :
    textBeforeSentinel (a ++ sentinel ++ e) = a.take ((findSentinel a).getD a.length) := by
  rw [textBeforeSentinel_of_some (findSentinel_append_sentinel a e), List.append_assoc,
    List.take_append_of_le_length (findSentinel_getD_le a)]

end Sys2Proof.Machine
end

section
/-! PROOF. The extraction stream, the regrouper and the decoded text (42_text_codec.md R140 to R142, R145, R146). -/

namespace Sys2Proof.Machine

/-! ## The stream -/

/-- Pieces of one length w, one after another: place w * n + k is place k of piece n. -/
theorem getElem?_flatMap_of_length {α β : Type} {f : α → List β} {w : Nat} (hf : ∀ a, (f a).length = w) (l : List α)
    {n k : Nat} {a : α} (ha : l[n]? = some a) (hk : k < w) : (l.flatMap f)[w * n + k]? = (f a)[k]? := by
  induction l generalizing n with
  | nil => cases ha
  | cons b l ih =>
    rw [List.flatMap_cons]
    cases n with
    | zero =>
      obtain rfl : b = a := by simpa using ha
      rw [Nat.mul_zero, Nat.zero_add, List.getElem?_append_left (by rwa [hf])]
    | succ n =>
      rw [List.getElem?_append_right (by rw [hf, Nat.mul_succ]; omega), hf,
        show w * (n + 1) + k - w = w * n + k by rw [Nat.mul_succ]; omega]
      exact ih (by simpa using ha)

theorem stream_getElem? {px : List Pixel} {n k : Nat} {p : Pixel} (hp : px[n]? = some p) (hk : k < 6) :
    (stream px)[6 * n + k]? = (seq6 p)[k]? :=
  getElem?_flatMap_of_length seq6_length px hp hk

/-! ## The regrouper -/

/-- The byte of eight bits has those bits. -/
theorem bits8_ofNat_uint {s : Bits} (hs : s.length = 8) : bits8 (BitVec.ofNat 8 (uint s)) = s := by
  refine eq_of_uint_eq hs.symm ?_
  rw [uint_bits8, BitVec.toNat_ofNat, Nat.mod_eq_of_lt (hs ▸ uint_lt s)]

theorem ofNat_uint_bits8 (c : Byte) : BitVec.ofNat 8 (uint (bits8 c)) = c := by
  rw [uint_bits8, BitVec.ofNat_toNat, BitVec.setWidth_eq]

theorem fullChunks_length (x : Bits) : (fullChunks x).length = x.length / 8 := by simp [fullChunks]

/-- The first m pieces of eight bits, one after another. -/
theorem flatMap_range_take (x : Bits) (m : Nat) :
    ((List.range m).flatMap fun j => (x.drop (8 * j)).take 8) = x.take (8 * m) := by
  induction m with
  | zero => rfl
  | succ m ih => rw [List.range_succ, List.flatMap_append, ih, List.flatMap_singleton, Nat.mul_succ, List.take_add]

theorem fullChunks_flatMap_bits8 (x : Bits) : (fullChunks x).flatMap bits8 = x.take (8 * (x.length / 8)) := by
  rw [fullChunks, List.flatMap_map, ← flatMap_range_take]
  refine List.flatMap_congr fun j hj => bits8_ofNat_uint ?_
  rw [List.mem_range] at hj
  rw [List.length_take, List.length_drop]
  omega

theorem tailChunk_drop (x : Bits) : tailChunk .drop x = [] := by
  unfold tailChunk
  split <;> rfl

theorem tailChunk_of_mod_eq_zero (mode : TailMode) {x : Bits} (hx : x.length % 8 = 0) : tailChunk mode x = [] := if_pos hx

theorem tailChunk_shortValue {x : Bits} (hx : x.length % 8 ≠ 0) :
    tailChunk .shortValue x = [BitVec.ofNat 8 (uint (x.drop (8 * (x.length / 8))))] := if_neg hx

theorem uint_tail_lt (x : Bits) : uint (x.drop (8 * (x.length / 8))) < 2 ^ (x.length % 8) := by
  have hlen : (x.drop (8 * (x.length / 8))).length = x.length % 8 := by rw [List.length_drop]; omega
  exact hlen ▸ uint_lt _

/-- The tail holds fewer than eight bits, so its byte has its value. -/
theorem tail_toNat (x : Bits) :
    (BitVec.ofNat 8 (uint (x.drop (8 * (x.length / 8))))).toNat = uint (x.drop (8 * (x.length / 8))) := by
  rw [BitVec.toNat_ofNat]
  exact Nat.mod_eq_of_lt ((uint_tail_lt x).trans_le (Nat.pow_le_pow_right (by decide) (by omega)))

/-- The first byte of the stream is the first chunk. -/
theorem fullChunks_bits8_append (c : Byte) (x : Bits) : fullChunks (bits8 c ++ x) = c :: fullChunks x := by
  have hlen : (bits8 c ++ x).length / 8 = x.length / 8 + 1 := by rw [List.length_append, bits8_length]; omega
  have hdrop : ∀ j, (bits8 c ++ x).drop (8 * (j + 1)) = x.drop (8 * j) := fun j => by
    rw [Nat.mul_succ, Nat.add_comm, ← List.drop_drop, List.drop_left' (bits8_length c)]
  rw [fullChunks, hlen, List.range_succ_eq_map, List.map_cons, List.map_map]
  refine congrArg₂ _ ?_ (List.map_congr_left fun j _ => ?_)
  · rw [Nat.mul_zero, List.drop_zero, List.take_left' (bits8_length c), ofNat_uint_bits8]
  · rw [Function.comp_apply, hdrop]

theorem tailChunk_bits8_append (mode : TailMode) (c : Byte) (x : Bits) :
    tailChunk mode (bits8 c ++ x) = tailChunk mode x := by
  have hlen : (bits8 c ++ x).length = x.length + 8 := by rw [List.length_append, bits8_length, Nat.add_comm]
  have hdrop : (bits8 c ++ x).drop (8 * ((x.length + 8) / 8)) = x.drop (8 * (x.length / 8)) := by
    rw [Nat.add_div_right _ (by decide), Nat.mul_succ, Nat.add_comm, ← List.drop_drop, List.drop_left' (bits8_length c)]
  simp only [tailChunk, hlen, hdrop, Nat.add_mod_right]

/-- Bytes at the front of the stream are cut out again as the first chunks. -/
theorem regroup_flatMap_bits8_append (mode : TailMode) (f : List Byte) (x : Bits) :
    regroup mode (f.flatMap bits8 ++ x) = f ++ regroup mode x := by
  induction f with
  | nil => rfl
  | cons c f ih =>
    rw [List.flatMap_cons, List.append_assoc, regroup, fullChunks_bits8_append, tailChunk_bits8_append, List.cons_append,
      ← regroup, ih, List.cons_append]

/-! ## The decoded text -/

theorem decodeChunk_eq (p : Params) (c : Byte) : decodeChunk p c = if c ∈ p.invalidCodes then placeholder else [c] := by
  split
  · next h => exact decodeChunk_of_invalid fun hv => validCode_iff.1 hv h
  · next h => exact decodeChunk_of_valid (validCode_iff.2 h)

/-- Chunks of valid codes are their own text. -/
theorem flatMap_decodeChunk_of_valid {p : Params} {cs : List Byte} (h : ∀ c ∈ cs, validCode p c = true) :
    cs.flatMap (decodeChunk p) = cs := by
  rw [List.flatMap_congr fun c hc => decodeChunk_of_valid (h c hc), List.flatMap_singleton']

/-- The decoded text is that of the full chunks, and the tail's after it. -/
theorem decodedText_eq (p : Params) (mode : TailMode) (px : List Pixel) :
    decodedText { p with tailMode := mode } px =
      (fullChunks (stream px)).flatMap (decodeChunk p) ++ (tailChunk mode (stream px)).flatMap (decodeChunk p) :=
  List.flatMap_append

theorem decodedText_drop (p : Params) (px : List Pixel) :
    decodedText { p with tailMode := .drop } px = (fullChunks (stream px)).flatMap (decodeChunk p) := by
  rw [decodedText_eq, tailChunk_drop, List.flatMap_nil, List.append_nil]

/-- Settles O13: the stream place by place, and the regrouper's cut of any bitstream. -/
theorem regrouperCutsTheStream : Obligations.RegrouperCutsTheStream := by
  refine ⟨fun px => ⟨stream_length px, fun n k p => stream_getElem?⟩, fun p px => ?_, fun x =>
    ⟨fullChunks_length x, fullChunks_flatMap_bits8 x, ?_, fun hx => ?_, fun hx => ⟨_, ?_, tail_toNat x, ?_⟩⟩⟩
  · rw [decodedText, List.flatMap_def]
    exact congrArg List.flatten (List.map_congr_left fun c _ => decodeChunk_eq p c)
  · rw [regroup, tailChunk_drop, List.append_nil]
  · rw [regroup, tailChunk_of_mod_eq_zero _ hx, List.append_nil]
  · rw [regroup, tailChunk_shortValue hx]
  · exact (tail_toNat x).trans_lt (uint_tail_lt x)

/-! ## The tail -/

/-- The tail's text is one chunk's at most. -/
theorem tailText_length_le (p : Params) (mode : TailMode) (x : Bits) :
    ((tailChunk mode x).flatMap (decodeChunk p)).length ≤ 3 := by
  have hlen : (tailChunk mode x).length ≤ 1 := (tailChunk_length_le mode x).trans (by split <;> decide)
  match h : tailChunk mode x with
  | [] => simp
  | [c] => simpa using decodeChunk_length_le p c
  | _ :: _ :: _ => simp [h] at hlen

/-- The tail of a stream of pixels is of six bits at most, so its text does not hold the sentinel's last byte. -/
theorem sentinel_last_notMem_tailText (p : Params) (px : List Pixel) :
    0x7D ∉ (tailChunk .shortValue (stream px)).flatMap (decodeChunk p) := by
  by_cases hx : (stream px).length % 8 = 0
  · simp [tailChunk_of_mod_eq_zero _ hx]
  · have hsix : ((stream px).drop (8 * ((stream px).length / 8))).length ≤ 6 := by
      rw [List.length_drop, stream_length]
      omega
    rw [tailChunk_shortValue hx, List.flatMap_singleton, decodeChunk_eq]
    split
    · decide
    · exact fun hmem => sentinel_last_ne_uint hsix (congrArg some (List.mem_singleton.1 hmem))

/-- Settles O14: the tail's text completes no sentinel, and a sentinel within the full chunks ends before it. -/
theorem tailModeMattersOnlyWithoutSentinel : Obligations.TailModeMattersOnlyWithoutSentinel := by
  intro p px
  rw [decodedText_drop, decodedText_eq]
  have hfind := findSentinel_append_of_last_notMem (sentinel_last_notMem_tailText p px)
    ((fullChunks (stream px)).flatMap (decodeChunk p))
  refine ⟨hfind, fun hfound => ?_, _, rfl, tailText_length_le p _ _⟩
  obtain ⟨i, hi⟩ := Option.ne_none_iff_exists'.1 (hfind ▸ hfound)
  obtain ⟨hat, -⟩ := findSentinel_eq_some_iff.1 hi
  rw [textBeforeSentinel_of_some hi, textBeforeSentinel_of_some (hfind.trans hi),
    List.take_append_of_le_length (by have := sentinel_length_le hat; omega)]

/-- Settles O15: the returned text is no longer than the decoded one, whose chunks give at most three bytes each. -/
theorem extractedTextFitsTout : Obligations.ExtractedTextFitsTout := fun p px hp hpx =>
  ⟨(textBeforeSentinel_length_le _).trans (decodedText_length_le p px), extractedText_length_le hp hpx⟩

end Sys2Proof.Machine
end

section
/-! PROOF. The frame bit by bit, the pixel budget and the woven pixel (42_text_codec.md R147 to R152, R154, R156). -/

namespace Sys2Proof.Machine

/-! ## The frame -/

theorem frameBits_getElem? {text : List Word} {j k : Nat} {c : Byte} (hc : (frame text)[j]? = some c) (hk : k < 8) :
    (frameBits text)[8 * j + k]? = some (c.getLsbD (7 - k)) :=
  (getElem?_flatMap_of_length bits8_length (frame text) hc hk).trans (bits8_getElem? c hk)

theorem payloadBits_getElem? (y : Bits) (n : Nat) {k : Nat} (hk : k < 6) : (payloadBits y n)[k]? = y[6 * n + k]? := by
  rw [payloadBits, List.getElem?_take_of_lt hk, List.getElem?_drop]

/-- The budget is the least number of pixels that holds the bitstream. -/
theorem frameBits_length_le_iff (text : List Word) (P : Nat) :
    (frameBits text).length ≤ 6 * P ↔ pixelBudget text.length ≤ P := by
  rw [frameBits_length, pixelBudget, ceilDiv]
  omega

theorem payloadBits_beyond_budget {text : List Word} {n : Nat} (hn : pixelBudget text.length ≤ n) :
    payloadBits (frameBits text) n = [] := by
  have := (frameBits_length_le_iff text n).2 hn
  rw [payloadBits, List.drop_of_length_le this, List.take_nil]

/-- Settles O16: the frame's length and the residue of n modulo 6 decide the rest. -/
theorem frameLengthAndBudget : Obligations.FrameLengthAndBudget := by
  refine ⟨fun text j k c => frameBits_getElem?, fun y n => ⟨payloadBits_length y n, fun k => payloadBits_getElem? y n⟩,
    fun text => ⟨frame_length text, frameBits_length text, frameBits_length_le_iff text, ?_⟩⟩
  rw [frameBits_length, frameLength]
  omega

/-! ## The woven pixel -/

theorem drawBits_length (r : Draw) : (drawBits r).length = 6 := rfl

theorem uint_drawBits (r : Draw) : uint (drawBits r) = r.toNat := by
  refine uint_eq_of_getMsbD rfl fun i hi => ?_
  interval_cases i <;> simp [BitVec.getMsbD, drawBits]

theorem seq6_fill222 (p : Pixel) (r : Draw) : seq6 (fill222 p r) = drawBits r := by
  refine eq_of_uint_eq rfl ?_
  rw [fill222, uint_seq6, ext222_ins222, uint_drawBits]

theorem Pixel.sameHigh222.trans {p q r : Pixel} (hpq : p.sameHigh222 q) (hqr : q.sameHigh222 r) : p.sameHigh222 r := by
  obtain ⟨hr, hg, hb⟩ := hpq
  obtain ⟨hr', hg', hb'⟩ := hqr
  exact ⟨hr.trans hr', hg.trans hg', hb.trans hb'⟩

theorem wovenPixel_of_lt {P n : Nat} (h : n < P) (y : Bits) (p : Pixel) (r : Draw) :
    wovenPixel y P n p r = insPart222 (fill222 p r) (payloadBits y n) := if_pos h

theorem wovenPixel_of_le {P n : Nat} (h : P ≤ n) (y : Bits) (p : Pixel) (r : Draw) :
    wovenPixel y P n p r = fill222 p r := if_neg (Nat.not_lt.2 h)

theorem wovenPixel_sameHigh222 (y : Bits) (P n : Nat) (p : Pixel) (r : Draw) :
    (wovenPixel y P n p r).sameHigh222 p := by
  have hfill : (fill222 p r).sameHigh222 p := ins222_sameHigh222 p r
  rcases Nat.lt_or_ge n P with h | h
  · rw [wovenPixel_of_lt h]
    exact (insPart222_sameHigh222 _ _).trans hfill
  · rwa [wovenPixel_of_le h]

theorem seq6_wovenPixel_of_le {P n : Nat} (h : P ≤ n) (y : Bits) (p : Pixel) (r : Draw) :
    seq6 (wovenPixel y P n p r) = drawBits r := by
  rw [wovenPixel_of_le h, seq6_fill222]

theorem seq6_wovenPixel_of_lt {P n : Nat} (h : n < P) (y : Bits) (p : Pixel) (r : Draw) :
    seq6 (wovenPixel y P n p r) = payloadBits y n ++ (drawBits r).drop (payloadBits y n).length := by
  have hlen : (payloadBits y n).length ≤ 6 := List.length_take_le ..
  rw [wovenPixel_of_lt h, seq6_insPart222 _ hlen, seq6_fill222]

/-- Settles O17: the filler goes in first, and the payload replaces its first bits inside the budget. -/
theorem wovenPixelBits : Obligations.WovenPixelBits := fun y P n p r =>
  ⟨wovenPixel_sameHigh222 y P n p r, fun h => seq6_wovenPixel_of_le h y p r, fun h => seq6_wovenPixel_of_lt h y p r⟩

/-- With a text's own budget the two cases are one: beyond it there are no payload bits. -/
theorem seq6_wovenPixel_frameBits (text : List Word) (n : Nat) (p : Pixel) (r : Draw) :
    seq6 (wovenPixel (frameBits text) (pixelBudget text.length) n p r) =
      payloadBits (frameBits text) n ++ (drawBits r).drop (payloadBits (frameBits text) n).length := by
  rcases Nat.lt_or_ge n (pixelBudget text.length) with h | h
  · exact seq6_wovenPixel_of_lt h _ p r
  · rw [seq6_wovenPixel_of_le h, payloadBits_beyond_budget h]
    rfl

end Sys2Proof.Machine
end

section
/-! PROOF. The text codec's commands: how EXTRACT_TXT and WEAVE_TXT end, and the text round trip (42_text_codec.md
R145, R153, R155, R157). -/

namespace Sys2Proof.Machine

variable {s t : State}

/-! ## EXTRACT_TXT -/

theorem outLenWord_toNat {count : Nat} (h : count < 2 ^ 32) : (outLenWord count).toNat = count := by
  rw [outLenWord, if_pos h, BitVec.toNat_ofNat, Nat.mod_eq_of_lt h]

/-- Settles O20: the carrier loads, and the returned text is stored from element 0 on. -/
theorem extractTxtCompletes : Obligations.ExtractTxtCompletes := by
  intro s px hfit hlen hcar
  have hpx := Buffer.load_eq_some.2 ⟨hlen, hcar⟩
  exact ⟨_, execExtractTxt_next.2 (.inr ⟨carrierFits_iff.2 hfit, px, hpx, rfl⟩), endOk_endedOk _ _ _,
    fun j hj => Buffer.read_store_below s.mem.tout hj, fun j hj => Buffer.read_store_above s.mem.tout hj,
    outLenWord_toNat⟩

/-! ## WEAVE_TXT -/

theorem wovenText_getElem? (s : State) (text : List Word) {px : List Pixel} {m : Nat} {p : Pixel}
    (hp : px[m]? = some p) : (s.wovenText text px)[m]? =
      some (wovenPixel (frameBits text) (pixelBudget s.operands.chars) m p (Config.draw6 (s.draws + m))) := by
  rw [State.wovenText, wovenRaster, List.getElem?_mapIdx, hp, Option.map_some]

theorem withBudget_reqPix_toNat (h : pixelBudget s.operands.chars < 2 ^ 32) :
    s.withBudget.reqPix.toNat = pixelBudget s.operands.chars := by
  rw [withBudget_reqPix, BitVec.toNat_ofNat, Nat.mod_eq_of_lt h]

/-- Settles O21: text and carrier load, and the woven raster is stored from element 0 on. -/
theorem weaveTxtCompletes : Obligations.WeaveTxtCompletes := by
  intro s text hfit hn hP htext htin hcar
  obtain ⟨px, hpx⟩ := Buffer.exists_load hcar
  obtain ⟨hlen, hread⟩ := Buffer.load_eq_some.1 hpx
  have hchecks : (s.carrierTooLarge || s.textTooLong) = false :=
    Bool.or_eq_false_iff.2 ⟨carrierFits_iff.2 hfit, textFits_iff.2 hn⟩
  have hbudget : pixelBudget s.operands.chars < 2 ^ 32 := hP.trans_lt (pixels_lt _)
  refine ⟨_, execWeaveTxt_next.2 (.inr (.inr ⟨hchecks, withinCapacity_iff.2 hP, text, px,
    Buffer.load_eq_some.2 ⟨htext, htin⟩, hpx, rfl⟩)), endOk_endedOk _ _ _, withBudget_reqPix_toNat hbudget, rfl,
    fun m p hm hp => ?_, fun m hm => ?_⟩
  · have hstored := Buffer.read_store_below s.mem.orgb (vs := s.wovenText text px) (n := m)
      (by rw [wovenText_length, hlen]; exact hm)
    rw [wovenText_getElem? s text ((hread m hm).symm.trans hp), ← htext] at hstored
    exact ⟨_, hstored, wovenPixel_sameHigh222 _ _ _ _ _, seq6_wovenPixel_frameBits text m p _⟩
  · exact Buffer.read_store_above s.mem.orgb (by rw [wovenText_length, hlen]; exact hm)

/-- WEAVE_TXT ends with CAPACITY_EXCEEDED exactly where the ranges are met and the capacity is not. -/
theorem execWeaveTxt_capacityExceeded_iff :
    (execWeaveTxt s = .next t ∧ t.err = .capacityExceeded) ↔
      (s.carrierTooLarge || s.textTooLong) = false ∧ s.overCapacity = true ∧
        t = s.withBudget.raiseError .capacityExceeded := by
  refine ⟨fun ⟨h, herr⟩ => ?_, fun h => ⟨execWeaveTxt_next.2 (.inr (.inl h)), ?_⟩⟩
  · rcases execWeaveTxt_next.1 h with ⟨-, rfl⟩ | hover | ⟨-, -, text, px, -, -, rfl⟩
    · cases herr
    · exact hover
    · cases herr
  · obtain ⟨-, -, rfl⟩ := h
    rfl

/-- R9's constraint on TXT_IN_DEPTH. -/
theorem Params.ok_txtInDepth {p : Params} (h : p.ok = true) : p.txtInDepth ≤ 2 ^ 28 := by
  simp only [Params.ok, Bool.and_eq_true, decide_eq_true_eq] at h
  obtain ⟨⟨⟨-, htin⟩, -⟩, -⟩ := h
  exact htin

/-- The budget of a text that fits TIN is below 2^32 (10_state.md R29). -/
theorem pixelBudget_lt {n : Nat} (hn : n ≤ 2 ^ 28) : pixelBudget n < 2 ^ 32 :=
  (pixelBudget_le hn).trans_lt (by decide)

/-- Settles O24: the error comes from the capacity check, which writes REQ_PIX alone. -/
theorem capacityBoundary : Obligations.CapacityBoundary := by
  refine fun s hok => ⟨?_, fun t h herr => ?_⟩
  · simp only [exec, execWeaveTxt_capacityExceeded_iff, exists_and_left, exists_eq, and_true, Bool.or_eq_false_iff,
      carrierFits_iff, textFits_iff, overCapacity_iff, pixelBudget_eq, and_assoc]
  · obtain ⟨hchecks, -, rfl⟩ := execWeaveTxt_capacityExceeded_iff.1 ⟨h, herr⟩
    obtain ⟨-, htxt⟩ := Bool.or_eq_false_iff.1 hchecks
    have hbudget := pixelBudget_lt ((textFits_iff.1 htxt).trans (Params.ok_txtInDepth hok))
    exact ⟨raiseError_endedWith _ (by decide), rfl, rfl, withBudget_reqPix_toNat hbudget⟩

/-! ## The round trip -/

/-- A carrier whose pixels hold the payload bits of y, one after another, has y at the front of its stream. -/
theorem prefix_stream_of_payloadBits {px : List Pixel} {y : Bits} (hlen : y.length ≤ 6 * px.length)
    (h : ∀ n q, px[n]? = some q → payloadBits y n <+: seq6 q) : y <+: stream px := by
  refine List.prefix_iff_getElem?.2 fun i hi => ?_
  have hk : i % 6 < 6 := Nat.mod_lt _ (by decide)
  have hq : px[i / 6]? = some px[i / 6] := List.getElem?_eq_getElem (by omega)
  have hbit : (payloadBits y (i / 6))[i % 6]? = some y[i] := by
    rw [payloadBits_getElem? _ _ hk, Nat.div_add_mod, List.getElem?_eq_getElem hi]
  have hread := stream_getElem? hq hk
  rw [Nat.div_add_mod] at hread
  obtain ⟨rest, hrest⟩ := h _ _ hq
  rw [hread, ← hrest, List.getElem?_append_left (List.getElem?_eq_some_iff.1 hbit).1, hbit]

/-- A carrier that starts with a frame of valid codes decodes to the frame's text and sentinel, and more after them. -/
theorem decodedText_of_frameBits_prefix {p : Params} {px : List Pixel} {text : List Word}
    (hvalid : ∀ c ∈ text.map chr2byte ++ sentinel, validCode p c = true) (h : frameBits text <+: stream px) :
    ∃ e, decodedText p px = text.map chr2byte ++ sentinel ++ e := by
  obtain ⟨x, hx⟩ := h
  refine ⟨(pad text.length ++ regroup p.tailMode x).flatMap (decodeChunk p), ?_⟩
  rw [decodedText, ← hx, frameBits, regroup_flatMap_bits8_append, frame, List.append_assoc, List.flatMap_append,
    flatMap_decodeChunk_of_valid hvalid]

/-- A character of eight bits is its byte. -/
theorem byteWord_chr2byte {c : Word} (hc : c.toNat ≤ 0xFF) : byteWord (chr2byte c) = c := by
  refine BitVec.eq_of_toNat_eq ?_
  rw [byteWord, BitVec.toNat_setWidth_of_le (by decide), chr2byte_of_le hc]

/-- EXTRACT_TXT of a carrier that starts with a frame of valid codes returns the frame's text up to its first sentinel. -/
theorem extractTxt_of_frameBits_prefix {px : List Pixel} {text : List Word} (hfit : s.operands.pixels ≤ s.cfg.carDepth)
    (hpx : Buffer.load s.mem.car s.operands.pixels = some px) (htext : text.length < 2 ^ 32)
    (hvalid : ∀ c ∈ text.map chr2byte ++ sentinel, validCode s.cfg c = true) (hframe : frameBits text <+: stream px) :
    ∃ t, exec .extractTxt s = .next t ∧ t.ok = true ∧ t.sentFound = true ∧
      t.outLen.toNat = (findSentinel (text.map chr2byte)).getD text.length ∧
      ∀ i c, i < (findSentinel (text.map chr2byte)).getD text.length → text[i]? = some c →
        Buffer.read t.mem.tout i = some (chr2byte c) := by
  obtain ⟨hlen, hcar⟩ := Buffer.load_eq_some.1 hpx
  obtain ⟨e, hd⟩ := decodedText_of_frameBits_prefix hvalid hframe
  obtain ⟨t, hexec, ⟨-, -, hok, -, hfound, -⟩, hout, -, houtLen⟩ := extractTxtCompletes s px hfit hlen hcar
  rw [hd, textBeforeSentinel_append_sentinel, List.length_map] at hout houtLen
  rw [hd, findSentinel_append_sentinel, Option.isSome_some] at hfound
  have hm : (findSentinel (text.map chr2byte)).getD text.length ≤ text.length := by
    simpa only [List.length_map] using findSentinel_getD_le (text.map chr2byte)
  rw [List.length_take, List.length_map, Nat.min_eq_left hm] at hout houtLen
  refine ⟨t, hexec, hok, hfound, houtLen (hm.trans_lt htext), fun i c hi hc => ?_⟩
  rw [hout i hi, List.getElem?_take_of_lt hi, List.getElem?_map, hc, Option.map_some]

/-- A carrier buffer whose elements hold the payload bits of a text within its capacity loads as pixels whose stream
starts with the text's frame. -/
theorem frameBits_prefix_of_load {car : Buffer Pixel} {K : Nat} {text : List Word} (hP : pixelBudget text.length ≤ K)
    (h : ∀ m < K, ∃ q, Buffer.read car m = some q ∧ payloadBits (frameBits text) m <+: seq6 q) :
    ∃ px, Buffer.load car K = some px ∧ frameBits text <+: stream px := by
  obtain ⟨px, hpx⟩ := Buffer.exists_load (b := car) (K := K) fun m hm => by
    obtain ⟨q, hq, -⟩ := h m hm
    rw [hq, Option.isSome_some]
  obtain ⟨hlen, hread⟩ := Buffer.load_eq_some.1 hpx
  refine ⟨px, hpx, prefix_stream_of_payloadBits ?_ fun m q hq => ?_⟩
  · rwa [frameBits_length_le_iff, hlen]
  · have hm : m < K := hlen ▸ (List.getElem?_eq_some_iff.1 hq).1
    obtain ⟨q', hq', hbits⟩ := h m hm
    obtain rfl : q' = q := Option.some.inj (hq'.symm.trans ((hread m hm).trans hq))
    exact hbits

/-- Settles O33: the copied carrier's stream starts with the frame, whatever the draws, so EXTRACT_TXT finds the frame's
text. -/
theorem textRoundTrip : Obligations.TextRoundTrip := by
  intro s text hfit hn hP htext htin hcar hvalid
  obtain ⟨t, hweave, ⟨-, -, htok, -⟩, -, -, hwoven, -⟩ := weaveTxtCompletes s text hfit hn hP htext htin hcar
  refine ⟨t, hweave, htok, fun u hcfg hK hcopy => ?_⟩
  have copied : ∀ m < s.operands.pixels,
      ∃ q, Buffer.read u.mem.car m = some q ∧ payloadBits (frameBits text) m <+: seq6 q := fun m hm => by
    obtain ⟨p, hp⟩ := Option.isSome_iff_exists.1 (hcar m hm)
    obtain ⟨q, hq, -, hbits⟩ := hwoven m p hm hp
    exact ⟨q, (hcopy m hm).trans hq, hbits ▸ List.prefix_append _ _⟩
  obtain ⟨px, hpx, hframe⟩ := frameBits_prefix_of_load (htext ▸ hP) copied
  obtain ⟨v, hextract, hvok, hfound, houtLen, hout⟩ := extractTxt_of_frameBits_prefix (s := u)
    (by rwa [hK, hcfg]) (by rwa [hK]) (htext.trans_lt s.operands.txtLen.isLt) (by rwa [hcfg]) hframe
  refine ⟨v, hextract, hvok, hfound, houtLen, hout, fun hnone hlatin => ?_⟩
  have hwhole : (findSentinel (text.map chr2byte)).getD text.length = text.length := by
    rw [findSentinel_eq_none_iff.2 fun j hat => hnone j (take_five_eq_sentinel_iff.2 hat), Option.getD_none]
  rw [hwhole] at houtLen hout
  refine ⟨houtLen, fun i c hc => ?_⟩
  rw [hout i c (List.getElem?_eq_some_iff.1 hc).1 hc, Option.map_some,
    byteWord_chr2byte (hlatin c (List.mem_of_getElem? hc))]

end Sys2Proof.Machine
end

section
/-! PROOF. How commands end with an error (60_exceptions.md R162 to R167, 30_encoding.md R84), and an IDLE block (R180). -/

namespace Sys2Proof.Machine

variable {s t : State} {i : Instr}

/-! ## The errors of a command -/

/-- A RANGE check of command `i` fails (60_exceptions.md R163). -/
def State.OutOfRange (s : State) (i : Instr) : Prop :=
  s.carrierTooLarge = true ∨ (i = .weaveTxt ∧ s.textTooLong = true)

theorem outOfRange_iff : s.OutOfRange i ↔
    s.cfg.carDepth < s.operands.carW.toNat * s.operands.carH.toNat ∨
      (i = .weaveTxt ∧ s.cfg.txtInDepth < s.operands.txtLen.toNat) :=
  or_congr carrierTooLarge_iff (and_congr_right' textTooLong_iff)

theorem outOfRange_weaveTxt : s.OutOfRange .weaveTxt ↔ (s.carrierTooLarge || s.textTooLong) = true := by
  simp [State.OutOfRange]

/-- The RANGE checks come first: they need no element to be written (60_exceptions.md R162). -/
theorem exec_of_outOfRange (h : s.OutOfRange i) : exec i s = .next (s.raiseError .range) := by
  cases i with
  | extract => exact execExtract_next.2 (.inl ⟨h.resolve_right (by simp), rfl⟩)
  | weave => exact execWeave_next.2 (.inl ⟨h.resolve_right (by simp), rfl⟩)
  | extractTxt => exact execExtractTxt_next.2 (.inl ⟨h.resolve_right (by simp), rfl⟩)
  | weaveTxt => exact execWeaveTxt_next.2 (.inl ⟨outOfRange_weaveTxt.1 h, rfl⟩)

/-- A command that ends does so by one of its own errors (60_exceptions.md R167), or without one. -/
theorem exec_next_errors (h : exec i s = .next t) :
    (s.OutOfRange i ∧ t = s.raiseError .range) ∨
    (i = .weave ∧ t = s.raiseError .sizeMismatch) ∨
    (i = .weaveTxt ∧ t = s.withBudget.raiseError .capacityExceeded) ∨
    t.err = .none := by
  cases i with
  | extract =>
    rcases execExtract_next.1 h with ⟨hcar, ht⟩ | ⟨-, px, -, rfl⟩
    · exact .inl ⟨.inl hcar, ht⟩
    · exact .inr (.inr (.inr rfl))
  | weave =>
    rcases execWeave_next.1 h with ⟨hcar, ht⟩ | ⟨-, -, ht⟩ | ⟨-, -, px, vs, -, -, rfl⟩
    · exact .inl ⟨.inl hcar, ht⟩
    · exact .inr (.inl ⟨rfl, ht⟩)
    · exact .inr (.inr (.inr rfl))
  | extractTxt =>
    rcases execExtractTxt_next.1 h with ⟨hcar, ht⟩ | ⟨-, px, -, rfl⟩
    · exact .inl ⟨.inl hcar, ht⟩
    · exact .inr (.inr (.inr rfl))
  | weaveTxt =>
    rcases execWeaveTxt_next.1 h with ⟨hrange, ht⟩ | ⟨-, -, ht⟩ | ⟨-, -, text, px, -, -, rfl⟩
    · exact .inl ⟨outOfRange_weaveTxt.2 hrange, ht⟩
    · exact .inr (.inr (.inl ⟨rfl, ht⟩))
    · exact .inr (.inr (.inr rfl))

/-- Settles O22: the RANGE checks come first, and no other error of a command is RANGE. -/
theorem rangeErrors : Obligations.RangeErrors := by
  refine ⟨fun s => ⟨rfl, rfl⟩, fun s i => ?_⟩
  simp only [← outOfRange_iff]
  refine ⟨⟨fun ⟨t, h, herr⟩ => ?_, fun hout => ⟨_, exec_of_outOfRange hout, rfl⟩⟩, fun hout =>
    ⟨_, exec_of_outOfRange hout, raiseError_endedWith s (by decide), rfl, rfl, rfl, rfl⟩⟩
  rcases exec_next_errors h with ⟨hout, -⟩ | ⟨-, rfl⟩ | ⟨-, rfl⟩ | hnone
  · exact hout
  · cases herr
  · cases herr
  · cases hnone.symm.trans herr

/-- Settles O25: OK by the frame of every end, and ERR by the errors of each command. -/
theorem whichCommandRaisesWhat : Obligations.WhichCommandRaisesWhat := by
  intro s t i h
  obtain ⟨-, -, hok, -⟩ := exec_next_frame h
  refine ⟨hok, ?_⟩
  rcases exec_next_errors h with ⟨-, rfl⟩ | ⟨rfl, rfl⟩ | ⟨rfl, rfl⟩ | hnone
  · cases i <;> simp
  · exact .inr (.inr rfl)
  · exact .inr (.inr rfl)
  · cases i <;> exact .inl hnone

/-! ## What an error leaves -/

/-- A running command that ends with an error, an illegal word included, has raised it, and has written REQ_PIX before
that only where the error is CAPACITY_EXCEEDED (60_exceptions.md R165). -/
theorem commandStep_error (hb : s.busy = true) (h : commandStep s = .next t) (herr : t.err ≠ .none) :
    ∃ code w, code ≠ .none ∧ (code ≠ .capacityExceeded → w = s.reqPix) ∧
      t = { s with reqPix := w }.raiseError code := by
  cases hseq : s.seq with
  | idle => simp [hseq] at hb
  | run w l d =>
    cases hdec : decode w with
    | ok i =>
      rw [commandStep_ok hseq hdec] at h
      rcases exec_next_errors h with ⟨-, rfl⟩ | ⟨-, rfl⟩ | ⟨-, rfl⟩ | hnone
      · exact ⟨.range, _, herr, fun _ => rfl, rfl⟩
      · exact ⟨.sizeMismatch, _, herr, fun _ => rfl, rfl⟩
      · exact ⟨.capacityExceeded, _, herr, nofun, rfl⟩
      · exact absurd hnone herr
    | error e =>
      obtain rfl : s.endIllegal = t := by simpa [commandStep_illegal hseq hdec] using h
      exact ⟨.illegalCmd, _, herr, fun _ => rfl, rfl⟩

/-- Settles O26: `raise Error` writes flags and PROGRESS alone and leaves the block IDLE. -/
theorem errorsLeaveNoPartialOutput : Obligations.ErrorsLeaveNoPartialOutput := by
  intro s t hb h herr
  obtain ⟨code, w, hcode, hreq, rfl⟩ := commandStep_error hb h herr
  exact ⟨raiseError_endedWith _ hcode, rfl, rfl, ⟨rfl, rfl, rfl, rfl, rfl, rfl, rfl, rfl, rfl, rfl, rfl⟩, hreq,
    hostWrite_reg rfl (by decide)⟩

/-! ## Illegal words and the IDLE block -/

theorem commandDue_illegal {w : Word} {e : DecodeError} (h : decode w = .error e) (k : Nat) : commandDue w k = 0 := by
  simp [commandDue, h]

theorem step_illegal {w : Word} {l : Latched} {e : DecodeError} (hrun : s.seq = .run w l 0)
    (hdec : decode w = .error e) (hreset : s.resetNext = false) : step s = .next s.endIllegal := by
  have hmoves : s.sequencerMoves = true := sequencerMoves_iff.2 ⟨w, l, 0, hrun, .inl rfl, hreset⟩
  rw [step, nextMove, if_pos hmoves, commandStep_illegal hrun hdec]

/-- Settles O27: an accepted illegal word has no input to pass, so the next step raises its error. -/
theorem illegalWordEndsAtOnce : Obligations.IllegalWordEndsAtOnce := by
  intro s w e hb hdec hreset
  have haccept : hostWrite s .reg 0 w = s.accept w := hostWrite_reg hb (by decide) w
  have hrun : (s.accept w).seq = .run w s.toLatch 0 := by rw [accept_seq, commandDue_illegal hdec]
  rw [haccept]
  exact ⟨_, step_illegal hrun hdec hreset, raiseError_endedWith _ (by decide), rfl, rfl, rfl, rfl, rfl⟩

/-- Settles O48: no command runs, so the host moves, and it has no input. -/
theorem idleBlockStays : Obligations.IdleBlockStays := by
  intro s hidle hnone
  have hstays : s.sequencerMoves = false := by simp [State.sequencerMoves, hidle]
  simp [step, nextMove, hstays, hostMove, hnone]

end Sys2Proof.Machine
end

section
/-! PROOF. Reset: its values, and that it comes first (70_reset_and_hazards.md R190 to R193). -/

namespace Sys2Proof.Machine

variable {s : State}

theorem element_of_unwritten (hmem : s.mem = Memory.unwritten) {S : Space} (hS : S ≠ .reg) (i : Nat) :
    s.element S i = none := by
  cases S with
  | reg => exact absurd rfl hS
  | car | emb | tin | orgb | oidx | tout => simp [State.element, hmem, Memory.unwritten, Buffer.read]

/-- Settles O49: the values are R193's, and no element of a buffer is listed. -/
theorem resetValues : Obligations.ResetValues :=
  ⟨rfl, rfl, rfl, rfl, rfl, rfl, rfl, rfl, rfl, rfl, rfl, fun _ i hS => element_of_unwritten rfl hS i⟩

/-- Settles O51: the parameters are allowed, no element is written, no result flag is set, no command runs, and the
result registers are 0. -/
theorem resetIsSound : Obligations.ResetIsSound :=
  ⟨Config.params_ok, by simp [State.memSound, State.reset, Memory.unwritten_wf, Memory.unwritten_within],
    statusSound_of_noResults ⟨rfl, rfl, rfl, rfl⟩, runSound_of_idle rfl, Nat.zero_le _, Nat.zero_le _, Nat.zero_le _⟩

/-! ## Asserted reset -/

/-- Reset outranks a due command (60_exceptions.md R173, log 13). -/
theorem step_reset {rest : List Input} (hin : s.inputs = .reset :: rest) :
    step s = .next { s.assertReset with inputs := rest } := by
  have hstays : s.sequencerMoves = false := by
    refine Bool.eq_false_iff.2 fun hmoves => ?_
    obtain ⟨-, -, -, -, -, hnext⟩ := sequencerMoves_iff.1 hmoves
    simp [State.resetNext, hin] at hnext
  simp [step, nextMove, hstays, hostMove, hin]

theorem statusWord_eq_zero (hidle : s.seq = .idle) (hclear : s.noResults) (hwbusy : s.wbusy = false) :
    s.statusWord = 0 := by
  obtain ⟨hdone, hok, herr, hsent⟩ := hclear
  simp [State.statusWord, hdone, hok, herr, hsent, hwbusy, busy_idle hidle, ErrCode.code]

theorem weavingText_iff : s.weavingText ↔ ∃ w l d, s.seq = .run w l d ∧ decode w = .ok .weaveTxt ∧
    (s.carrierTooLarge || s.textTooLong || s.overCapacity) = false := by
  refine exists₃_congr fun w l d => and_congr_right fun hrun => and_congr_right fun _ => ?_
  simp only [Bool.or_eq_false_iff, carrierFits_iff, textFits_iff, withinCapacity_iff, pixelBudget_eq, operands_run hrun,
    and_assoc]

/-- A WEAVE_TXT that passes its checks has its K draws in hand (42_text_codec.md R151). -/
theorem drawsInHand_weaving (h : s.weavingText) : s.drawsInHand = s.operands.pixels := by
  obtain ⟨w, l, d, hrun, hdec, hpass⟩ := weavingText_iff.1 h
  simp [drawsInHand_weaveTxt hrun hdec, hpass, operands_run hrun]

/-- Nothing else has a draw in hand: an IDLE block, another word, or a WEAVE_TXT that its checks end (R150). -/
theorem drawsInHand_not_weaving (h : ¬s.weavingText) : s.drawsInHand = 0 := by
  cases hrun : s.seq with
  | idle => exact drawsInHand_idle hrun
  | run w l d =>
    by_cases hdec : decode w = .ok .weaveTxt
    · rw [drawsInHand_weaveTxt hrun hdec, if_pos]
      exact eq_true_of_ne_false fun hpass => h (weavingText_iff.2 ⟨w, l, d, hrun, hdec, hpass⟩)
    · exact drawsInHand_other hrun hdec

/-- Settles O50: the step is the assertion of reset, whose draws are those in hand and cut off. -/
theorem resetOutranksAndClears : Obligations.ResetOutranksAndClears := by
  intro s rest hin
  have hstatus : ({ s.assertReset with inputs := rest } : State).statusWord = 0 :=
    statusWord_eq_zero rfl ⟨rfl, rfl, rfl, rfl⟩ rfl
  refine ⟨_, step_reset hin, rfl, rfl, rfl, hstatus, rfl, rfl, rfl, rfl, rfl, rfl, rfl, rfl, rfl,
    fun S i hS => element_of_unwritten rfl hS i, rfl, fun hweaving => ?_, fun hother => ⟨?_, ?_⟩, fun k hk => ?_,
    fun k hk => ?_⟩
  · exact congrArg (s.draws + ·) (drawsInHand_weaving hweaving)
  · exact congrArg (s.draws + ·) (drawsInHand_not_weaving hother)
  · simp [drawsCutOff_nil (drawsInHand_not_weaving hother)]
  · exact List.mem_append_left _ hk
  · exact (List.mem_append.1 hk).imp_right mem_drawsCutOff

end Sys2Proof.Machine
end

section
/-! SUPPORT. Runs of the machine: the first and the last of their steps taken apart. -/

namespace Sys2Proof.Machine

section AnyCore

variable {M : Host.Core} {s t u : M.State} {k : Nat}

theorem coreRun_succ (h : M.step s = .next t) : M.run (k + 1) s = M.run k t := by
  simp only [Host.Core.run, h]

theorem coreRun_one (s : M.State) : M.run 1 s = M.step s := by
  simp only [Host.Core.run]
  cases M.step s <;> rfl

theorem coreRun_succ_last : M.run (k + 1) s = .next u ↔ ∃ t, M.run k s = .next t ∧ M.step t = .next u := by
  induction k generalizing s with
  | zero => rw [Nat.zero_add, coreRun_one]; simp [Host.Core.run]
  | succ k ih =>
    rw [Host.Core.run]
    cases h : M.step s with
    | next t => simp only [ih, coreRun_succ h]
    | fault r | refused r => simp [Host.Core.run, h]

end AnyCore

variable {s t u : State} {k : Nat}

theorem run_succ (h : step s = .next t) :
    Host.Core.run Sys2Proof.core (k + 1) s = Host.Core.run Sys2Proof.core k t := coreRun_succ h

theorem run_one (s : State) : Host.Core.run Sys2Proof.core 1 s = step s := coreRun_one (M := Sys2Proof.core) s

theorem run_succ_last : Host.Core.run Sys2Proof.core (k + 1) s = .next u ↔
    ∃ t, Host.Core.run Sys2Proof.core k s = .next t ∧ step t = .next u := coreRun_succ_last

/-- A state that a step leaves as it is stays through any number of steps. -/
theorem run_fixed (h : step s = .next s) (k : Nat) : Host.Core.run Sys2Proof.core k s = .next s := by
  induction k with
  | zero => rfl
  | succ k ih => exact (run_succ h).trans ih

end Sys2Proof.Machine
end

section
/-! PROOF. A running command ends, and a host that waits sees it end (70_reset_and_hazards.md R203,
30_encoding.md R87). -/

namespace Sys2Proof.Machine

variable {s t : State} {w : Word} {l : Latched} {d : Nat} {rest : List Input}

/-! ## Whatever the host does -/

theorem commandStep_next (hrun : s.seq = .run w l d) (h : commandStep s = .next t) :
    t.seq = .idle ∧ t.done = true ∧ t.inputs = s.inputs ∧ t.endUnseen = true := by
  cases hdec : decode w with
  | ok i =>
    rw [commandStep_ok hrun hdec] at h
    obtain ⟨hidle, hdone, -, -, hin, -, -, hunseen, -⟩ := exec_next_frame h
    exact ⟨hidle, hdone, hin, hunseen⟩
  | error e =>
    obtain rfl : s.endIllegal = t := by simpa [commandStep_illegal hrun hdec] using h
    exact ⟨rfl, rfl, rfl, rfl⟩

theorem Input.Writes.resetNext {x : Input} {p : Params} {S : Space} {i : Nat} {v : Datum} (hx : x.Writes p S i v)
    (hin : s.inputs = x :: rest) : s.resetNext = false := by
  rcases hx with rfl | ⟨a, rfl, -⟩ <;> simp [State.resetNext, hin]

theorem hostWrite_busy_seq (hb : s.busy = true) (S : Space) (i : Nat) (v : Word) : (hostWrite s S i v).seq = s.seq := by
  rcases hostWrite_cases s S i v with ⟨-, b, k, h⟩ | ⟨hidle, -⟩
  · rw [h]
  · simp [hb] at hidle

/-- A step of a running command ends it, or a reset cuts it, or it lets one input pass (log 5). -/
theorem step_running (hrun : s.seq = .run w l d) (h : step s = .next t) :
    t.seq = .idle ∨ ∃ d', d = d' + 1 ∧ t.seq = .run w l d' := by
  unfold step nextMove at h
  split at h
  · exact .inl (commandStep_next hrun h).1
  rename_i hstays
  have hpass : s.inputPasses.seq = .run w l (d - 1) := by simp [State.inputPasses, hrun]
  have passes (hne : s.inputs ≠ []) (hreset : s.resetNext = false) (hseq : t.seq = .run w l (d - 1)) :
      ∃ d', d = d' + 1 ∧ t.seq = .run w l d' := by
    have hpos : d ≠ 0 := fun hd => hstays (sequencerMoves_iff.2 ⟨w, l, d, hrun, .inl hd, hreset⟩)
    exact ⟨d - 1, by omega, hseq⟩
  rcases hostMove_next h with ⟨hnone, -⟩ | ⟨rest, -, rfl⟩ | ⟨x, rest, S, i, v, hin, hx, rfl⟩ |
    ⟨hreset, hne, a, k, rest, b, o, -, rfl⟩
  · exact absurd (sequencerMoves_iff.2 ⟨w, l, d, hrun, .inr hnone, by simp [State.resetNext, hnone]⟩) hstays
  · exact .inl rfl
  · have hb : ({ s.inputPasses with inputs := rest } : State).busy = true := busy_run hpass
    exact .inr (passes (by simp [hin]) (hx.resetNext hin) ((hostWrite_busy_seq hb S i _).trans hpass))
  · exact .inr (passes hne hreset hpass)

theorem running_ends (hrun : s.seq = .run w l d) :
    ∃ k ≤ d + 1, ∀ t, Host.Core.run Sys2Proof.core k s = .next t → t.seq = .idle := by
  induction d using Nat.strong_induction_on generalizing s with
  | h d ih =>
    by_cases hpasses : ∃ d' t, d = d' + 1 ∧ step s = .next t ∧ t.seq = .run w l d'
    · obtain ⟨d', t, rfl, hstep, hrun'⟩ := hpasses
      obtain ⟨k, hk, hends⟩ := ih d' (by omega) hrun'
      exact ⟨k + 1, by omega, fun u hu => hends u ((run_succ hstep).symm.trans hu)⟩
    · refine ⟨1, by omega, fun t ht => ?_⟩
      have hstep : step s = .next t := (run_one s).symm.trans ht
      exact (step_running hrun hstep).resolve_right fun ⟨d', hd, hrun'⟩ => hpasses ⟨d', t, hd, hstep, hrun'⟩

/-! ## A host that waits -/

/-- A poll while the command is not due lowers its count (log 5). -/
theorem step_poll_busy (hrun : s.seq = .run w l (d + 1)) (hin : s.inputs = .wait :: rest) :
    step s = .next { s with seq := .run w l d, answer := s.statusWord } := by
  obtain ⟨-, -, htakes⟩ := stepRunsDecodedCommand
  have hpoll := htakes s _ .wait rest hin (.inr ⟨w, l, d, hrun, rfl⟩)
  rw [hpoll, busy_run hrun, if_pos rfl, ← hin]

/-- A poll of an IDLE block takes the host past the `wait`, and shows it the end of the last command. -/
theorem step_poll_idle (hidle : s.seq = .idle) (hin : s.inputs = .wait :: rest) :
    step s = .next { s with answer := s.statusWord, endUnseen := false, older := [], inputs := rest } := by
  obtain ⟨-, -, htakes⟩ := stepRunsDecodedCommand
  have hpoll := htakes s _ .wait rest hin (.inl ⟨hidle, rfl⟩)
  rw [hpoll, busy_idle hidle, if_neg Bool.false_ne_true]

theorem step_due_wait (hrun : s.seq = .run w l 0) (hin : s.inputs = .wait :: rest) : step s = commandStep s :=
  if_pos (sequencerMoves_iff.2 ⟨w, l, 0, hrun, .inl rfl, by simp [State.resetNext, hin]⟩)

/-- What a poll changes takes no part in whether a command is ready. -/
theorem ready_polled (hrun : s.seq = .run w l d) (n : Nat) (a : Word) (i : Instr) :
    State.ready { s with seq := .run w l n, answer := a } i ↔ s.ready i := by
  have hops : State.operands { s with seq := .run w l n, answer := a } = s.operands := (operands_run hrun).symm
  cases i <;> simp only [State.ready, State.carLoaded, State.embLoaded, State.tinLoaded, hops]

/-- While the host waits, the polls before the command is due change nothing that the command works on. -/
theorem run_polls (hrun : s.seq = .run w l d) (hin : s.inputs = .wait :: rest) :
    ∃ u : State, Host.Core.run Sys2Proof.core d s = .next u ∧ u.seq = .run w l 0 ∧ u.inputs = .wait :: rest ∧
      ∀ i, u.ready i ↔ s.ready i := by
  induction d generalizing s with
  | zero => exact ⟨s, rfl, hrun, hin, fun _ => Iff.rfl⟩
  | succ d ih =>
    obtain ⟨u, hu, hdue, hinu, hready⟩ := ih (s := { s with seq := .run w l d, answer := s.statusWord }) rfl hin
    exact ⟨u, (run_succ (step_poll_busy hrun hin)).trans hu, hdue, hinu,
      fun i => (hready i).trans (ready_polled hrun d s.statusWord i)⟩

/-- Once due, the command ends, if nothing stops it, and the host still waits. -/
theorem run_wait_end (hrun : s.seq = .run w l d) (hin : s.inputs = .wait :: rest)
    (h : Host.Core.run Sys2Proof.core (d + 1) s = .next t) :
    t.seq = .idle ∧ t.done = true ∧ t.inputs = .wait :: rest := by
  obtain ⟨u, hu, hdue, hinu, -⟩ := run_polls hrun hin
  obtain ⟨u', hu', hstep⟩ := run_succ_last.1 h
  obtain rfl : u = u' := Host.Outcome.next.inj (hu.symm.trans hu')
  obtain ⟨hidle, hdone, hsame, -⟩ := commandStep_next hdue ((step_due_wait hdue hinu).symm.trans hstep)
  exact ⟨hidle, hdone, hsame.trans hinu⟩

theorem commandStep_answers (hrun : s.seq = .run w l d) (hready : ∀ i, decode w = .ok i → s.ready i) :
    ∃ t, commandStep s = .next t := by
  cases hdec : decode w with
  | ok i =>
    rw [commandStep_ok hrun hdec]
    exact exec_next_iff_ready.2 (hready i hdec)
  | error e => exact ⟨_, commandStep_illegal hrun hdec⟩

/-- Nothing stops a command that is ready, or an illegal word. -/
theorem run_wait_answers (hrun : s.seq = .run w l d) (hin : s.inputs = .wait :: rest)
    (hready : ∀ i, decode w = .ok i → s.ready i) : ∃ t, Host.Core.run Sys2Proof.core (d + 1) s = .next t := by
  obtain ⟨u, hu, hdue, hinu, hkept⟩ := run_polls hrun hin
  obtain ⟨t, ht⟩ := commandStep_answers hdue fun i hdec => (hkept i).2 (hready i hdec)
  exact ⟨t, run_succ_last.2 ⟨u, hu, (step_due_wait hdue hinu).trans ht⟩⟩

/-- Settles O58: every step of a running command that does not end it lowers its count, a poll among them; and a command
that is ready answers when it is due, so the poll after it finds the block IDLE. -/
theorem everyCommandEnds : Obligations.EveryCommandEnds := by
  refine ⟨fun s w l d => running_ends, fun s w l d rest => step_poll_busy, fun s w l d rest hrun hin hready => ?_⟩
  obtain ⟨t, ht⟩ := run_wait_answers hrun hin hready
  obtain ⟨hidle, hdone, hint⟩ := run_wait_end hrun hin ht
  exact ⟨t, _, ht, hidle, hdone, hint, run_succ_last.2 ⟨t, ht, step_poll_idle hidle hint⟩, rfl⟩

end Sys2Proof.Machine
end

section
/-! PROOF. The end of a host program, and what is observed of it (70_reset_and_hazards.md R204). -/

namespace Sys2Proof.Machine

variable {s t : State} {w : Word} {l : Latched} {d : Nat}

theorem programEnded_iff : s.programEnded = true ↔ s.inputs = [] ∧ s.seq = .idle ∧ s.endUnseen = false := by
  have hidle : s.busy = false ↔ s.seq = .idle := ⟨seq_idle_of_not_busy, busy_idle⟩
  simp [State.programEnded, hidle, and_assoc]

/-! ## The record of an end that the host has not seen -/

@[simp] theorem hostWrite_endUnseen (s : State) (S : Space) (i : Nat) (v : Word) :
    (hostWrite s S i v).endUnseen = s.endUnseen := by
  rcases hostWrite_effect s S i v with ⟨b, k, h⟩ | ⟨-, ⟨-, h⟩ | h | ⟨_, _, _, _, _, h⟩⟩ <;> rw [h] <;> rfl

theorem transact_endUnseen {x : Txn} (h : transact s x = .next t) :
    t.endUnseen = (s.endUnseen && !((Input.txn x).readsStatus s.cfg && !s.busy)) := by
  rcases transact_next h with ⟨S, i, v, rfl, rfl⟩ | ⟨S, i, a, k, rfl, rfl⟩
  · simp [Input.readsStatus]
  · exact noticed_endUnseen s S i

/-- A bus access reads STATUS exactly if its transaction does. -/
theorem readsStatus_toTxn {p : Params} {a : BusAccess} {S : Space} (hS : spaceAt p a.addr = some S) :
    (Input.txn (a.toTxn S ((a.addr - p.base S) / 4))).readsStatus p = (Input.bus a).readsStatus p := by
  cases hdata : a.data with
  | some v => simp [BusAccess.toTxn, Input.readsStatus, hdata]
  | none =>
    by_cases hreg : S = .reg
    · subst hreg; simp [BusAccess.toTxn, Input.readsStatus, hdata, hS]
    · simp [BusAccess.toTxn, Input.readsStatus, hdata, hS, hreg]

theorem hostMove_endUnseen (h : hostMove s = .next t) : t.endUnseen = (s.endUnseen && !s.readsIdleStatus) := by
  have reads (x : Input) (rest : List Input) (hin : s.inputs = x :: rest) : s.readsIdleStatus =
      (x.readsStatus s.cfg && !({ s.inputPasses with inputs := rest } : State).busy) := by
    rw [State.readsIdleStatus, hin]
    exact congrArg (_ && !·) (busy_inputPasses s).symm
  unfold hostMove at h
  split at h
  case h_1 hin =>
    obtain rfl := Host.Outcome.next.inj h
    simp [State.readsIdleStatus, hin]
  case h_2 x rest hin => simpa [reads _ rest hin] using transact_endUnseen h
  case h_3 a rest hin =>
    obtain ⟨S, hS, htxn⟩ := busInput_next h
    have hseen := transact_endUnseen htxn
    rw [readsStatus_toTxn hS] at hseen
    simpa [reads _ rest hin] using hseen
  case h_4 rest hin =>
    obtain rfl := Host.Outcome.next.inj h
    rw [pollStatus_inputPasses hin, State.readsIdleStatus, hin]
    cases hb : s.busy <;> simp [Input.readsStatus]
  case h_5 rest hin =>
    obtain rfl := Host.Outcome.next.inj h
    simp [State.readsIdleStatus, hin, Input.readsStatus]
  case h_6 => cases h

theorem step_endUnseen (h : step s = .next t) :
    t.endUnseen = (s.sequencerMoves || (s.endUnseen && !s.readsIdleStatus)) := by
  unfold step nextMove at h
  split at h
  case isTrue hmoves =>
    obtain ⟨w, l, d, hrun, -⟩ := sequencerMoves_iff.1 hmoves
    obtain ⟨-, -, -, hunseen⟩ := commandStep_next hrun h
    rw [hunseen, hmoves, Bool.true_or]
  case isFalse hstays => rw [hostMove_endUnseen h, eq_false_of_ne_true hstays, Bool.false_or]

/-! ## A program whose last statement is `wait` -/

theorem wait_ends_program (hrun : s.seq = .run w l d) (hin : s.inputs = [.wait])
    (h : Host.Core.run Sys2Proof.core (d + 2) s = .next t) : t.programEnded = true ∧ t.older = [] := by
  obtain ⟨u, hu, hstep⟩ := run_succ_last.1 h
  obtain ⟨hidle, -, hinu⟩ := run_wait_end hrun hin hu
  obtain rfl := Host.Outcome.next.inj ((step_poll_idle hidle hinu).symm.trans hstep)
  exact ⟨programEnded_iff.2 ⟨rfl, hidle, rfl⟩, rfl⟩

/-! ## The observation -/

/-- The numbers of the draws that were made: those below the next, but for those cut off (log 4). -/
def State.drawn (s : State) : List Nat := (List.range s.draws).filter fun k => !s.undrawn.contains k

theorem observation_draws (s : State) : s.observation.draws = s.drawn.map Config.draw6 := rfl

theorem mem_drawn {k : Nat} : k ∈ s.drawn ↔ k < s.draws ∧ k ∉ s.undrawn := by simp [State.drawn]

theorem drawn_pairwise (s : State) : s.drawn.Pairwise (· < ·) := List.pairwise_lt_range.filter _

theorem drawn_of_undrawn_nil (h : s.undrawn = []) : s.drawn = List.range s.draws := by simp [State.drawn, h]

/-- Settles O60: the record follows who moves, an ended program has an IDLE block with no input, and a `wait` that is
alone to come ends with the poll that finds the block IDLE. -/
theorem programEndAndObservation : Obligations.ProgramEndAndObservation := by
  refine ⟨fun s => programEnded_iff, rfl, fun s t => step_endUnseen, fun s hended => ?_,
    fun s t w l d => wait_ends_program, fun s w l d hrun hin hready => ?_, fun s => ⟨?_, fun i hi => ?_, rfl,
    ⟨s.drawn, drawn_pairwise s, fun k => mem_drawn, observation_draws s⟩, fun hnone => ⟨?_, fun k hk => ?_⟩⟩⟩
  · obtain ⟨hin, hidle, -⟩ := programEnded_iff.1 hended
    exact run_fixed (idleBlockStays s hidle hin)
  · obtain ⟨-, -, hwaits⟩ := everyCommandEnds
    obtain ⟨-, u, -, -, -, -, hu, -⟩ := hwaits s w l d [] hrun hin hready
    exact ⟨u, hu, wait_ends_program hrun hin hu⟩
  · simp [State.observation]
  · simp [State.observation, hi]
  · simp [observation_draws, drawn_of_undrawn_nil hnone]
  · simp [observation_draws, drawn_of_undrawn_nil hnone, hk]

end Sys2Proof.Machine
end
